-- ==== Sys2Proof/Word.lean ====
section
/-! DEFINITION. The word types of the core (00_scope.md section 5.1 and R6): every value is an unsigned bit vector of
a stated width, an index into a fixed array is a `Fin`. -/

namespace Sys2Proof

/-- A register, timer or memory cell: `u8` (R6, R20, R31, R34). -/
abbrev Byte := BitVec 8

/-- `PC`, `I`, a stack slot or an opcode: `u16` (R6, OPCODE_WIDTH, PC_WIDTH, I_WIDTH). -/
abbrev Word := BitVec 16

/-- The 12-bit address operand `nnn` (R75). -/
abbrev Addr12 := BitVec 12

/-- A register index, always within 0 to 15 (R22). -/
abbrev Reg := Fin 16

/-- A key index 0 to F (R32). -/
abbrev Key := Fin 16

/-- A column of the framebuffer, 0 to 63 (R33). -/
abbrev Col := Fin 64

/-- A row of the framebuffer, 0 to 31 (R33). -/
abbrev Row := Fin 32

/-- `V0`, the register Bnnn adds (R109). -/
abbrev V0 : Reg := 0

/-- `VF`, the register that also carries the flags (R21). -/
abbrev VF : Reg := 15

end Sys2Proof
end

