-- ==== Sys2Proof/Config.lean ====
section
/-! DEFINITION. What the source leaves open: the parameters of 00_scope.md R7 as plain data, one type per parameter
with its default and its alternative, and the free value of the random input. The values the model runs with are
`Machine.params` (Machine/Params.lean). -/

namespace Sys2Proof.Config

/-- VF_ORDER (R7, R121): which write lands last when `x` = 15 in 8xy4, 8xy5, 8xy6, 8xy7, 8xyE. -/
inductive VfOrder where
  | flagLast
  | resultLast
  deriving DecidableEq, Repr

/-- SHIFT_SOURCE (R7, R130, R131): the register the shifts read. -/
inductive ShiftSource where
  | vx
  | vy
  deriving DecidableEq, Repr

/-- SPRITE_BIT_ORDER (R7, R160): the bit of a row byte drawn at bit-index 0. -/
inductive BitOrder where
  | msbFirst
  | lsbFirst
  deriving DecidableEq, Repr

/-- GLYPH_INDEX (R7, R142): what Fx29 does with a register value above 15. -/
inductive GlyphIndex where
  | mask
  | raise
  deriving DecidableEq, Repr

/-- KEY_INDEX (R7, R173): what Ex9E and ExA1 do with a register value above 15. -/
inductive KeyIndex where
  | raise
  | mask
  deriving DecidableEq, Repr

/-- KEYWAIT_PICK (R7, R172): the key Fx0A records when several are pressed. -/
inductive KeyPick where
  | lowest
  | highest
  deriving DecidableEq, Repr

/-- I_ADD_CHECK (R7, R141): when Fx1E checks the range of `I`. -/
inductive IndexCheck where
  | atAdd
  | atUse
  deriving DecidableEq, Repr

/-- The open parameters of R7, but for RAND (`randByte` below). -/
structure Params where
  /-- SUB_EQ_FLAG: `VF` after SUB or SUBN of equal operands (R128, R129). -/
  subEqFlag : Bool
  /-- VF_ORDER. -/
  vfOrder : VfOrder
  /-- SHIFT_SOURCE. -/
  shiftSource : ShiftSource
  /-- SPRITE_BIT_ORDER. -/
  spriteBitOrder : BitOrder
  /-- GLYPH_TABLE: the bytes `load_glyphs` writes from address 0 (R242). -/
  glyphTable : List Byte
  /-- GLYPH_INDEX. -/
  glyphIndex : GlyphIndex
  /-- KEY_INDEX. -/
  keyIndex : KeyIndex
  /-- KEYWAIT_PICK. -/
  keywaitPick : KeyPick
  /-- I_ADD_CHECK. -/
  iAddCheck : IndexCheck
  /-- DECODE_STRICT: whether unused opcode bits must match the standard pattern (R80). -/
  decodeStrict : Bool
  deriving DecidableEq, Repr

/-- RAND (R7, R134, R222): the byte the random input supplies at the `k`-th draw. A FREE VALUE (log entry 16): the
spec gives no generator, no seed and no relation between draws, and nothing can be proved of a value of it. -/
opaque randByte : Nat → Byte

end Sys2Proof.Config
end

