-- ==== Sys2Proof/Machine/Params.lean ====
section
/-! DEFINITION. The values this model runs with for the parameters the source leaves open: the defaults of 00_scope.md
R7, each decided in 92_eei_decisions.md (log entries 2 to 11). -/

namespace Sys2Proof.Machine

/-- The glyph table of R242, digits 0 to 7 (PRESUMED: the spec takes the standard font, D7; log entry 7). -/
def glyphsLow : List Byte :=
  [0xF0, 0x90, 0x90, 0x90, 0xF0] ++ [0x20, 0x60, 0x20, 0x20, 0x70] ++ [0xF0, 0x10, 0xF0, 0x80, 0xF0]
  ++ [0xF0, 0x10, 0xF0, 0x10, 0xF0] ++ [0x90, 0x90, 0xF0, 0x10, 0x10] ++ [0xF0, 0x80, 0xF0, 0x10, 0xF0]
  ++ [0xF0, 0x80, 0xF0, 0x90, 0xF0] ++ [0xF0, 0x10, 0x20, 0x40, 0x40]

/-- The glyph table of R242, digits 8 to F (PRESUMED, log entry 7). -/
def glyphsHigh : List Byte :=
  [0xF0, 0x90, 0xF0, 0x90, 0xF0] ++ [0xF0, 0x90, 0xF0, 0x10, 0xF0] ++ [0xF0, 0x90, 0xF0, 0x90, 0x90]
  ++ [0xE0, 0x90, 0xE0, 0x90, 0xE0] ++ [0xF0, 0x80, 0x80, 0x80, 0xF0] ++ [0xE0, 0x90, 0x90, 0x90, 0xE0]
  ++ [0xF0, 0x80, 0xF0, 0x80, 0xF0] ++ [0xF0, 0x80, 0xF0, 0x80, 0x80]

/-- The defaults of R7. -/
def params : Config.Params where
  subEqFlag := false
  vfOrder := .flagLast
  shiftSource := .vx
  spriteBitOrder := .msbFirst
  glyphTable := glyphsLow ++ glyphsHigh
  glyphIndex := .mask
  keyIndex := .raise
  keywaitPick := .lowest
  iAddCheck := .atAdd
  decodeStrict := true

end Sys2Proof.Machine
end

