-- ==== Sys2Proof/Syntax.lean ====
section
/-! DEFINITION. The instruction set: one constructor per row of the opcode map, 30_encoding.md R78 and
spec/opcode_table.json, in the table's order. Operand fields are typed by their widths (R72, R74 to R76), so every
term is an instruction the encoding admits. -/

namespace Sys2Proof

/-- The 34 operations of R78. `x`, `y` are register indices, `kk` an immediate byte, `nnn` a 12-bit address, `n` the
sprite height 0 to 15. -/
inductive Instr where
  /-- 00E0 CLS (R101). -/
  | cls
  /-- 00EE RET (R102). -/
  | ret
  /-- 1nnn JP nnn (R103). -/
  | jp (nnn : Addr12)
  /-- 2nnn CALL nnn (R104). -/
  | call (nnn : Addr12)
  /-- 3xkk SE Vx, kk (R105). -/
  | seImm (x : Reg) (kk : Byte)
  /-- 4xkk SNE Vx, kk (R106). -/
  | sneImm (x : Reg) (kk : Byte)
  /-- 5xy0 SE Vx, Vy (R107). -/
  | seReg (x y : Reg)
  /-- 6xkk LD Vx, kk (R122). -/
  | ldImm (x : Reg) (kk : Byte)
  /-- 7xkk ADD Vx, kk (R132). -/
  | addImm (x : Reg) (kk : Byte)
  /-- 8xy0 LD Vx, Vy (R123). -/
  | ldReg (x y : Reg)
  /-- 8xy1 OR Vx, Vy (R124). -/
  | orReg (x y : Reg)
  /-- 8xy2 AND Vx, Vy (R125). -/
  | andReg (x y : Reg)
  /-- 8xy3 XOR Vx, Vy (R126). -/
  | xorReg (x y : Reg)
  /-- 8xy4 ADD Vx, Vy (R127). -/
  | addReg (x y : Reg)
  /-- 8xy5 SUB Vx, Vy (R128). -/
  | subReg (x y : Reg)
  /-- 8xy6 SHR Vx (R130); `y` is decoded and not used (R82). -/
  | shr (x y : Reg)
  /-- 8xy7 SUBN Vx, Vy (R129). -/
  | subnReg (x y : Reg)
  /-- 8xyE SHL Vx (R131); `y` is decoded and not used (R82). -/
  | shl (x y : Reg)
  /-- 9xy0 SNE Vx, Vy (R108). -/
  | sneReg (x y : Reg)
  /-- Annn LD I, nnn (R140). -/
  | ldI (nnn : Addr12)
  /-- Bnnn JP V0, nnn (R109). -/
  | jpV0 (nnn : Addr12)
  /-- Cxkk RND Vx, kk (R133). -/
  | rnd (x : Reg) (kk : Byte)
  /-- Dxyn DRW Vx, Vy, n (R161). -/
  | drw (x y : Reg) (n : Fin 16)
  /-- Ex9E SKP Vx (R170). -/
  | skp (x : Reg)
  /-- ExA1 SKNP Vx (R171). -/
  | sknp (x : Reg)
  /-- Fx07 LD Vx, DT (R150). -/
  | ldVxDT (x : Reg)
  /-- Fx0A LD Vx, K (R172). -/
  | ldVxK (x : Reg)
  /-- Fx15 LD DT, Vx (R151). -/
  | ldDTVx (x : Reg)
  /-- Fx18 LD ST, Vx (R152). -/
  | ldSTVx (x : Reg)
  /-- Fx1E ADD I, Vx (R141). -/
  | addI (x : Reg)
  /-- Fx29 LD F, Vx (R142). -/
  | ldF (x : Reg)
  /-- Fx33 LD B, Vx (R143). -/
  | ldB (x : Reg)
  /-- Fx55 LD [I], Vx (R144). -/
  | storeRegs (x : Reg)
  /-- Fx65 LD Vx, [I] (R145). -/
  | loadRegs (x : Reg)
  deriving DecidableEq, Repr

end Sys2Proof
end

