-- ==== Sys2Proof/Decode.lean ====
section
/-! DEFINITION. Decoding and encoding (30_encoding.md R70 to R82, R87): total on any opcode and on any bytes, rejecting
by name. Field positions and bit patterns are the standard CHIP-8 ones the spec supplies under D1 (PRESUMED, log
entry 1); strict matching is D2 (log entry 2). -/

namespace Sys2Proof

/-- Why bytes are no instruction. -/
inductive DecodeError where
  /-- No row of R78 matches the opcode (R80, R202). -/
  | unknownOpcode (op : Word)
  /-- Fewer than the two bytes of an opcode (R70). -/
  | truncated
  deriving DecidableEq, Repr

/-- The family, `op[15:12]` (R71, R72). -/
def opFamily (op : Word) : BitVec 4 := op.extractLsb' 12 4
/-- The field `x`, `op[11:8]` (R72). -/
def opX (op : Word) : Reg := (op.extractLsb' 8 4).toFin
/-- The field `y`, `op[7:4]` (R72). -/
def opY (op : Word) : Reg := (op.extractLsb' 4 4).toFin
/-- The field `n`, `op[3:0]` (R72, R76). -/
def opN (op : Word) : Fin 16 := (op.extractLsb' 0 4).toFin
/-- The field `kk`, `op[7:0]` (R72, R74). -/
def opKK (op : Word) : Byte := op.extractLsb' 0 8
/-- The field `nnn`, `op[11:0]` (R72, R75). -/
def opNNN (op : Word) : Addr12 := op.extractLsb' 0 12

/-- Family 0x0 (R78): all 16 bits fixed; the loose masks of R80 leave `op[11:8]` unexamined. -/
def decodeFamily0 (strict : Bool) (x : Reg) (kk : Byte) : Option Instr :=
  if strict && x != 0 then none
  else if kk = 0xE0 then some .cls
  else if kk = 0xEE then some .ret
  else none

/-- Families 0x5 and 0x9 (R78): the low nibble is 0; the loose masks of R80 leave it unexamined. -/
def decodeLowNibble0 (strict : Bool) (n : Fin 16) (i : Instr) : Option Instr :=
  if strict && n != 0 then none else some i

/-- Family 0x8 branches on the lowest nibble (R77, R79). -/
def decodeFamily8 (x y : Reg) (n : Fin 16) : Option Instr :=
  if n = 0x0 then some (.ldReg x y)
  else if n = 0x1 then some (.orReg x y)
  else if n = 0x2 then some (.andReg x y)
  else if n = 0x3 then some (.xorReg x y)
  else if n = 0x4 then some (.addReg x y)
  else if n = 0x5 then some (.subReg x y)
  else if n = 0x6 then some (.shr x y)
  else if n = 0x7 then some (.subnReg x y)
  else if n = 0xE then some (.shl x y)
  else none

/-- Family 0xE branches on the lowest byte (R77, R79). -/
def decodeFamilyE (x : Reg) (kk : Byte) : Option Instr :=
  if kk = 0x9E then some (.skp x)
  else if kk = 0xA1 then some (.sknp x)
  else none

/-- Family 0xF branches on the lowest byte (R77, R79). -/
def decodeFamilyF (x : Reg) (kk : Byte) : Option Instr :=
  if kk = 0x07 then some (.ldVxDT x)
  else if kk = 0x0A then some (.ldVxK x)
  else if kk = 0x15 then some (.ldDTVx x)
  else if kk = 0x18 then some (.ldSTVx x)
  else if kk = 0x1E then some (.addI x)
  else if kk = 0x29 then some (.ldF x)
  else if kk = 0x33 then some (.ldB x)
  else if kk = 0x55 then some (.storeRegs x)
  else if kk = 0x65 then some (.loadRegs x)
  else none

/-- Decode under either value of DECODE_STRICT: classify by the highest nibble, then branch within families 0x0, 0x8,
0xE, 0xF (R77, R87). `none` is an unknown opcode. -/
def decodeWith (strict : Bool) (op : Word) : Option Instr :=
  match (opFamily op).toNat with
  | 0x0 => decodeFamily0 strict (opX op) (opKK op)
  | 0x1 => some (.jp (opNNN op))
  | 0x2 => some (.call (opNNN op))
  | 0x3 => some (.seImm (opX op) (opKK op))
  | 0x4 => some (.sneImm (opX op) (opKK op))
  | 0x5 => decodeLowNibble0 strict (opN op) (.seReg (opX op) (opY op))
  | 0x6 => some (.ldImm (opX op) (opKK op))
  | 0x7 => some (.addImm (opX op) (opKK op))
  | 0x8 => decodeFamily8 (opX op) (opY op) (opN op)
  | 0x9 => decodeLowNibble0 strict (opN op) (.sneReg (opX op) (opY op))
  | 0xA => some (.ldI (opNNN op))
  | 0xB => some (.jpV0 (opNNN op))
  | 0xC => some (.rnd (opX op) (opKK op))
  | 0xD => some (.drw (opX op) (opY op) (opN op))
  | 0xE => decodeFamilyE (opX op) (opKK op)
  | _ => decodeFamilyF (opX op) (opKK op)

/-- Decode with the model's parameters (R87). -/
def decode (op : Word) : Option Instr := decodeWith Machine.params.decodeStrict op

/-- The opcode made of two bytes, the byte at the lower address in the high half (R52, R70). -/
def opcodeOf (hi lo : Byte) : Word := hi ++ lo

/-- Decode the front of a list of bytes: an instruction and the rest, or the reason there is none (R70, R87). -/
def decodeBytes : List Byte → Except DecodeError (Instr × List Byte)
  | hi :: lo :: rest =>
    match decode (opcodeOf hi lo) with
    | some i => .ok (i, rest)
    | none => .error (.unknownOpcode (opcodeOf hi lo))
  | _ => .error .truncated

/-- A register index or sprite height as its 4-bit field (R72). -/
def nibble (x : Fin 16) : BitVec 4 := BitVec.ofFin x

/-- Format XYN, and XY with the low nibble fixed: family, `x`, `y`, low nibble (R73). -/
def packXYN (f : BitVec 4) (x y : Reg) (n : Fin 16) : Word :=
  f ++ nibble x ++ nibble y ++ nibble n

/-- Format XKK, and X with the low byte fixed: family, `x`, low byte (R73). -/
def packXKK (f : BitVec 4) (x : Reg) (kk : Byte) : Word := f ++ nibble x ++ kk

/-- Format NNN: family and address (R73). -/
def packNNN (f : BitVec 4) (nnn : Addr12) : Word := f ++ nnn

/-- The opcode of an instruction, from the patterns of R78. -/
def encode : Instr → Word
  | .cls => packXKK 0x0 0 0xE0
  | .ret => packXKK 0x0 0 0xEE
  | .jp nnn => packNNN 0x1 nnn
  | .call nnn => packNNN 0x2 nnn
  | .seImm x kk => packXKK 0x3 x kk
  | .sneImm x kk => packXKK 0x4 x kk
  | .seReg x y => packXYN 0x5 x y 0x0
  | .ldImm x kk => packXKK 0x6 x kk
  | .addImm x kk => packXKK 0x7 x kk
  | .ldReg x y => packXYN 0x8 x y 0x0
  | .orReg x y => packXYN 0x8 x y 0x1
  | .andReg x y => packXYN 0x8 x y 0x2
  | .xorReg x y => packXYN 0x8 x y 0x3
  | .addReg x y => packXYN 0x8 x y 0x4
  | .subReg x y => packXYN 0x8 x y 0x5
  | .shr x y => packXYN 0x8 x y 0x6
  | .subnReg x y => packXYN 0x8 x y 0x7
  | .shl x y => packXYN 0x8 x y 0xE
  | .sneReg x y => packXYN 0x9 x y 0x0
  | .ldI nnn => packNNN 0xA nnn
  | .jpV0 nnn => packNNN 0xB nnn
  | .rnd x kk => packXKK 0xC x kk
  | .drw x y n => packXYN 0xD x y n
  | .skp x => packXKK 0xE x 0x9E
  | .sknp x => packXKK 0xE x 0xA1
  | .ldVxDT x => packXKK 0xF x 0x07
  | .ldVxK x => packXKK 0xF x 0x0A
  | .ldDTVx x => packXKK 0xF x 0x15
  | .ldSTVx x => packXKK 0xF x 0x18
  | .addI x => packXKK 0xF x 0x1E
  | .ldF x => packXKK 0xF x 0x29
  | .ldB x => packXKK 0xF x 0x33
  | .storeRegs x => packXKK 0xF x 0x55
  | .loadRegs x => packXKK 0xF x 0x65

/-- The high byte of an opcode, the one at `PC` (R71). -/
def opHigh (op : Word) : Byte := op.extractLsb' 8 8
/-- The low byte of an opcode, the one at `PC + 1` (R71). -/
def opLow (op : Word) : Byte := op.extractLsb' 0 8

/-- The two bytes of an instruction, in memory order (R52, R70). -/
def encodeBytes (i : Instr) : List Byte := [opHigh (encode i), opLow (encode i)]

/-- The host's question: the instruction the decoder reads from an opcode whose bits are `w`, numbered as the opcode
table numbers them (one 16-bit word, bit 0 the least significant), laid out as its two bytes in memory order. -/
def decodeTableWord (nbits w : Nat) : Option Instr :=
  match decodeBytes [opHigh (BitVec.ofNat 16 (w % 2 ^ nbits)), opLow (BitVec.ofNat 16 (w % 2 ^ nbits))] with
  | .ok (i, _) => some i
  | .error _ => none

end Sys2Proof
end

