-- ==== Sys2Proof/Machine/State.lean ====
section
/-! DEFINITION. The state of the core (10_state.md), as plain data, the errors a cycle or a load can report
(60_exceptions.md R200 to R207), the refusals, and the state right after reset (R38, R240). -/

namespace Sys2Proof.Machine

/-- The memory `M` (R34, R50): the listed cells, addresses strictly rising, no entry equal to what an unlisted address
reads as (`Memory.wf` in Machine/Ops.lean). -/
abbrev Memory := List Host.Cell

/-- The framebuffer `FB` (R33): 32 rows of 64 cells; `FB[c, r]` is cell `c` of row `r`. -/
abbrev FrameBuffer := Vector (Vector Bool 64) 32

/-- The key states `K` (R32). -/
abbrev Keys := Vector Bool 16

/-- Everything the spec gives the machine (10_state.md R20 to R40), and one field of the model's own, `draws`. -/
structure State where
  /-- `V[0]` to `V[15]` (R20). -/
  v : Vector Byte 16
  /-- The index register `I` (R23). -/
  i : Word
  /-- The program counter `PC` (R24). -/
  pc : Word
  /-- The return-address slots `S[0]` to `S[15]` (R28). -/
  stack : Vector Word 16
  /-- `SP`, the number of return addresses on the stack, 0 to 16 (R29; log entry 18). -/
  sp : Fin 17
  /-- The delay timer `DT` (R31). -/
  dt : Byte
  /-- The sound timer `ST` (R31). -/
  st : Byte
  /-- The memory `M` (R34). -/
  mem : Memory
  /-- The framebuffer `FB` (R33). -/
  fb : FrameBuffer
  /-- The key states `K`, written by the host only (R32; log entry 22). -/
  keys : Keys
  /-- THE MODEL'S OWN: how many random bytes Cxkk has taken; the free value of the next draw is
  `Config.randByte draws` (R134, R222; log entry 16). A later reset does not set it back (`State.reconstruct`). -/
  draws : Nat
  deriving DecidableEq, Repr

/-- The five error kinds with their payloads (R200, R207). An error is the result of the cycle (or of the load) that
raised it, and that cycle has written nothing (R206): the state after it is the state before it. SAFE: the model
reports what the spec reports, and nothing is claimed of a run past it (R211, log entry 15). -/
inductive Fault where
  /-- Raised by `load_program` only, before anything is written (R201, R243). Safe. -/
  | oversizedProgram (length : Nat)
  /-- Raised by the decode of every cycle whose opcode matches no row of R78 (R202). Safe. -/
  | unknownOpcode (opcode pc : Word)
  /-- Raised by 2nnn when `SP` = 16 (R203). Safe. -/
  | stackOverflow (pc : Word)
  /-- Raised by 00EE when `SP` = 0 (R204). Safe. -/
  | stackUnderflow (pc : Word)
  /-- Raised at the seven sites of R55: the fetch, Dxyn, Fx33, Fx55, Fx65, Fx1E, Ex9E and ExA1 (R205). Safe. -/
  | addressOutOfRange (addr pc : Word)
  deriving DecidableEq, Repr

/-- Why the model declines. -/
inductive Refusal where
  /-- An instruction the model gives no meaning; no arm of `exec` answers it. Safe. -/
  | notModelled (mnemonic : String)
  /-- Raised by `Session.move` when the host requests a cycle before `load_program` has succeeded (R244, R226; A28).
  No instruction and no step raises it. Safe. -/
  | notBooted
  /-- Raised by `Session.move` when the host loads out of the boot order or a second time (R244, A22, D28). No
  instruction and no step raises it. Safe. -/
  | loadOutOfOrder
  deriving DecidableEq, Repr

/-- The machine right after reset, the construction of the state container (R38, R240): all zero, `PC` and `I` at
0x200. The keys' value is the model's (log entry 22), as is `draws` (log entry 16). The glyphs and the program are put
into memory by the boot that follows (R244; log entries 28, 29). -/
def State.reset : State where
  v := Vector.replicate 16 0
  i := 0x200
  pc := 0x200
  stack := Vector.replicate 16 0
  sp := 0
  dt := 0
  st := 0
  mem := []
  fb := Vector.replicate 32 (Vector.replicate 64 false)
  keys := Vector.replicate 16 false
  draws := 0

end Sys2Proof.Machine
end

