-- ==== Sys2Proof/Machine/Ops.lean ====
section
/-! DEFINITION. The named operations over memory, registers, stack, framebuffer and timers; raising an error, the one
shared operation (60_exceptions.md R206, R210); the fetch (30_encoding.md R86) and the timer tick (R215). Every rule
makes its checks before its writes (00_scope.md section 5.3), and so does every operation here. -/

namespace Sys2Proof.Machine

/-- What an instruction or a step answers. -/
abbrev Result := Host.Outcome State Fault Refusal

/-! ### Memory (20_memory.md) -/

/-- MEM_SIZE (R6): addresses 0x000 to 0xFFF. -/
def memSize : Nat := 4096

/-- What an unlisted address reads as: the reset contents of memory, 0x00 (R38). -/
def Memory.unlisted : Byte := 0x00

/-- `M[a]`: a read of one cell, without side effect (R58). Callers have checked `a` (00_scope.md section 5.3). -/
def Memory.read : Memory → Nat → Byte
  | [], _ => Memory.unlisted
  | (b, w) :: m, a => if b = a then w else Memory.read m a

/-- The memory without an entry for `a`. -/
def Memory.erase : Memory → Nat → Memory
  | [], _ => []
  | (b, w) :: m, a => if b = a then Memory.erase m a else (b, w) :: Memory.erase m a

/-- Put an entry for `a` before the first higher address. -/
def Memory.insert : Memory → Nat → Byte → Memory
  | [], a, v => [(a, v)]
  | (b, w) :: m, a, v => if a < b then (a, v) :: (b, w) :: m else (b, w) :: Memory.insert m a v

/-- `M[a] <- v`: changes that cell only and keeps the canonical form (R58). There is no cell outside the address space
to write; callers have checked `a`, so that case is reached by no instruction (log entry 27). -/
def Memory.write (m : Memory) (a : Nat) (v : Byte) : Memory :=
  if a < memSize then
    if v = Memory.unlisted then m.erase a else (m.erase a).insert a v
  else m

/-- Single-byte writes at ascending addresses (R53). -/
def Memory.writeBytes : Memory → Nat → List Byte → Memory
  | m, _, [] => m
  | m, a, v :: vs => Memory.writeBytes (m.write a v) (a + 1) vs

/-- The canonical form: addresses strictly rising and inside memory, no entry equal to an unlisted cell. -/
def Memory.wf : Memory → Bool
  | [] => true
  | (b, w) :: m => decide (b < memSize) && decide (w ≠ Memory.unlisted) && m.all (fun e => decide (b < e.1)) && Memory.wf m

/-- `M[a]` in a state. -/
def State.byte (s : State) (a : Nat) : Byte := s.mem.read a

/-- Store bytes at ascending addresses from `a` (R53). -/
def State.storeBytes (s : State) (a : Nat) (bytes : List Byte) : State := { s with mem := s.mem.writeBytes a bytes }

/-! ### Registers, program counter, stack, framebuffer, keys (10_state.md) -/

/-- `V[x]` (R20). -/
def State.reg (s : State) (x : Reg) : Byte := s.v[x]

/-- `V[x] <- b` (R20): no register is hardwired or aliased. -/
def State.setReg (s : State) (x : Reg) (b : Byte) : State := { s with v := s.v.set x b }

/-- `pc <- target` (R24). -/
def State.setPc (s : State) (target : Word) : State := { s with pc := target }

/-- `pc <- P + 2`: the operation itself moves past its two bytes (R24, R25). -/
def State.advance (s : State) : State := s.setPc (s.pc + 2)

/-- A skip: `P + 4` when the condition holds, else `P + 2` (R100). -/
def State.skipIf (s : State) (c : Bool) : State := s.setPc (if c then s.pc + 4 else s.pc + 2)

/-- `I <- a` (R23). -/
def State.setI (s : State) (a : Word) : State := { s with i := a }

/-- Several registers at once, the block load (R145). -/
def State.setV (s : State) (v : Vector Byte 16) : State := { s with v := v }

/-- `DT <- b` (R31). -/
def State.setDt (s : State) (b : Byte) : State := { s with dt := b }

/-- `ST <- b` (R31). -/
def State.setSt (s : State) (b : Byte) : State := { s with st := b }

/-- The framebuffer as an operation leaves it (R33). -/
def State.setFb (s : State) (fb : FrameBuffer) : State := { s with fb := fb }

/-- `S[j]` (R28). -/
def State.slot (s : State) (j : Fin 16) : Word := s.stack[j]

/-- `FB[c, r]` (R33). -/
def FrameBuffer.cell (fb : FrameBuffer) (c : Col) (r : Row) : Bool := fb[r][c]

/-- `FB[c, r] <- b`. -/
def FrameBuffer.setCell (fb : FrameBuffer) (c : Col) (r : Row) (b : Bool) : FrameBuffer := fb.set r (fb[r].set c b)

/-- All 2048 cells 0 (R101). -/
def FrameBuffer.clear : FrameBuffer := Vector.replicate 32 (Vector.replicate 64 false)

/-- `FB[c, r]` in a state. -/
def State.cell (s : State) (c : Col) (r : Row) : Bool := s.fb.cell c r

/-- `K[k]` (R32). -/
def State.key (s : State) (k : Key) : Bool := s.keys[k]

/-! ### Errors (60_exceptions.md) -/

/-- RAISING AN ERROR (R206, R210): the cycle ends with the error as its result and writes no state; there is no vector,
no saved register and no mode, so nothing else is entered. The host keeps the state as it was (`executeCycle`,
Machine/HostPort.lean); there is no return from an error (R211). -/
def raise (f : Fault) (_s : State) : Result := .fault f

/-- The lowest address outside memory, the payload of a range access (R147, R207). -/
def firstOutside : Word := 0x1000

/-- The range check of Dxyn, Fx33, Fx55 and Fx65 on the last address touched, made before anything is written
(R55, R147). -/
def checkLast (last : Nat) (s : State) (go : Result) : Result :=
  if last > 0xFFF then raise (.addressOutOfRange firstOutside s.pc) s else go

/-! ### The call stack (10_state.md R28 to R30) -/

/-- Push: nothing when the stack is full, else `S[SP] <- a; SP <- SP + 1` (R30). -/
def State.push (s : State) (a : Word) : Option State :=
  if h : s.sp.val < 16 then
    some { s with stack := s.stack.set s.sp.val a h, sp := ⟨s.sp.val + 1, by omega⟩ }
  else none

/-- Pop: nothing when the stack is empty, else `SP <- SP - 1` and the address in `S[SP]` (the new `SP`), the slot
keeping its value (R30). -/
def State.pop (s : State) : Option (Word × State) :=
  if h : 0 < s.sp.val then
    have hj : s.sp.val - 1 < 16 := by omega
    some (s.stack[s.sp.val - 1], { s with sp := ⟨s.sp.val - 1, by omega⟩ })
  else none

/-! ### The fetch and the tick (30_encoding.md R85, R86; 60_exceptions.md R215) -/

/-- Fetch: the opcode at `PC`, big-endian (R52), or the error of R86 with `addr = max(P, 0x1000)`. -/
def State.fetch (s : State) : Except Fault Word :=
  if s.pc.toNat + 1 > 0xFFF then
    .error (.addressOutOfRange (if s.pc.toNat < 0x1000 then firstOutside else s.pc) s.pc)
  else .ok (opcodeOf (s.byte s.pc.toNat) (s.byte (s.pc.toNat + 1)))

/-- One timer's decrement: by one while above zero, saturating at zero (R31, R215). -/
def tickTimer (t : Byte) : Byte := if t.toNat > 0 then t - 1 else t

/-- Step 4 of the cycle: both timers (R215). -/
def State.tick (s : State) : State := { s with dt := tickTimer s.dt, st := tickTimer s.st }

/-- The tick follows an operation that completed, and only such a one (R206, R215). -/
def tickAfter : Result → Result
  | .next s => .next s.tick
  | .fault f => .fault f
  | .refused r => .refused r

/-! ### The random input (60_exceptions.md R222) -/

/-- `rand8()`: the byte the random input supplies now, a free value (R134; log entry 16). -/
def State.rand (s : State) : Byte := Config.randByte s.draws

/-- The next draw is another free value: no relation between successive draws (R134). -/
def State.drawn (s : State) : State := { s with draws := s.draws + 1 }

end Sys2Proof.Machine
end

