-- ==== Sys2Proof/Machine/Operands.lean ====
section
/-! DEFINITION. The operand forms (30_encoding.md R72 to R76, 20_memory.md R65): a register operand is `State.reg`, an
immediate `kk` is used as it stands (R74), `nnn` is zero-extended (R75); the rest are here. Each form the source leaves
open takes the parameters `p` of R7. -/

namespace Sys2Proof.Machine

/-- `nnn` zero-extended to the 16 bits of `PC` and `I` (R75). -/
def absolute (nnn : Addr12) : Word := nnn.setWidth 16

/-- A byte zero-extended to 16 bits. -/
def zextByte (b : Byte) : Word := b.setWidth 16

/-- The registers `V[0]` to `V[x]` of Fx55 and Fx65, in the order of their addresses (R76, R53). -/
def regsUpTo (x : Reg) : List Reg := (List.finRange 16).filter (fun r => decide (r ≤ x))

/-- The register the shifts read (R82, R130, R131). -/
def shiftOperand (p : Config.Params) (x y : Reg) : Reg :=
  match p.shiftSource with
  | .vx => x
  | .vy => y

/-- The glyph index of Fx29 for a register value, or nothing where the parameter says it is an error (R142). -/
def glyphDigit (p : Config.Params) (v : Byte) : Option Nat :=
  match p.glyphIndex with
  | .mask => some (v &&& 0x0F).toNat
  | .raise => if v.toNat > 15 then none else some v.toNat

/-- The address of a glyph: GLYPH_BASE plus five bytes a glyph (R6, R142). -/
def glyphAddress (d : Nat) : Word := BitVec.ofNat 16 (5 * d)

/-- The key Ex9E and ExA1 test for a register value, or nothing where it is an error (R173). -/
def keyOperand (p : Config.Params) (v : Byte) : Option Key :=
  match p.keyIndex with
  | .raise => if v.toNat > 15 then none else some (Fin.ofNat 16 v.toNat)
  | .mask => some (Fin.ofNat 16 (v &&& 0x0F).toNat)

/-- The keys in the order Fx0A scans them; the first pressed one is recorded (R172). -/
def keyScan (p : Config.Params) : List Key :=
  match p.keywaitPick with
  | .lowest => List.finRange 16
  | .highest => (List.finRange 16).reverse

/-- The key Fx0A records, or nothing when no key is pressed (R172). -/
def pressedKey (p : Config.Params) (s : State) : Option Key := (keyScan p).find? s.key

/-- The three decimal digits of a byte, hundreds first (R143). -/
def decimalDigits (v : Byte) : List Byte :=
  [BitVec.ofNat 8 (v.toNat / 100), BitVec.ofNat 8 (v.toNat / 10 % 10), BitVec.ofNat 8 (v.toNat % 10)]

/-- The pixel at bit-index `j` of a sprite's row byte (R160). -/
def spriteBit (p : Config.Params) (b : Byte) (j : Nat) : Bool :=
  match p.spriteBitOrder with
  | .msbFirst => b.getLsbD (7 - j)
  | .lsbFirst => b.getLsbD j

end Sys2Proof.Machine
end

