-- ==== Sys2Proof/Machine/Flags.lean ====
section
/-! DEFINITION. The flag computations (10_state.md R21, R35; 41_register_arithmetic.md R121, R127 to R131): `VF` is the
only flag, always 0 or 1 when an operation sets it as one, computed from the operands read before any write. -/

namespace Sys2Proof.Machine

/-- The value a flag gives `VF`. -/
def flagByte (f : Bool) : Byte := if f then 1 else 0

/-- Carry of 8xy4: the 9-bit sum exceeds 255 (R127). -/
def carryFlag (a b : Byte) : Bool := decide (a.toNat + b.toNat > 255)

/-- The no-borrow indicator of `a - b` (R128, R129): 1 if `a > b`, SUB_EQ_FLAG if equal, 0 if `a < b`. -/
def noBorrowFlag (p : Config.Params) (a b : Byte) : Bool :=
  if a.toNat > b.toNat then true else if a = b then p.subEqFlag else false

/-- The bit 8xy6 shifts out, the old bit 0 (R130). -/
def shiftedOutRight (a : Byte) : Bool := a.getLsbD 0

/-- The bit 8xyE shifts out, the old bit 7 (R131). -/
def shiftedOutLeft (a : Byte) : Bool := a.getLsbD 7

/-- The two writes of 8xy4, 8xy5, 8xy6, 8xy7 and 8xyE in the order of VF_ORDER (R121): the result to `V[x]` and then
the flag to `VF`, so that the flag wins when `x` = 15; or the other way round. -/
def State.setResultFlag (p : Config.Params) (s : State) (x : Reg) (r : Byte) (f : Bool) : State :=
  match p.vfOrder with
  | .flagLast => (s.setReg x r).setReg VF (flagByte f)
  | .resultLast => (s.setReg VF (flagByte f)).setReg x r

end Sys2Proof.Machine
end

