-- ==== Sys2Proof/Machine/Arith.lean ====
section
/-! DEFINITION. Register loads and arithmetic (41_register_arithmetic.md R120 to R135): each advances `PC` by 2 and
none can raise; arithmetic wraps modulo 256 (R120, R135, R214). -/

namespace Sys2Proof.Machine

/-- `V[x] <- b; pc <- P + 2`: the loads, the bitwise operations and the add-immediate, which have no flag. -/
def writeReg (x : Reg) (b : Byte) (s : State) : Result := .next (s.setReg x b).advance

/-- `V[x] <- r; VF <- f; pc <- P + 2`, the writes ordered by VF_ORDER (R121). -/
def writeRegFlag (p : Config.Params) (x : Reg) (r : Byte) (f : Bool) (s : State) : Result :=
  .next (s.setResultFlag p x r f).advance

/-- 8xy5 under any parameters (R128). -/
def subtract (p : Config.Params) (x y : Reg) (s : State) : Result :=
  writeRegFlag p x (s.reg x - s.reg y) (noBorrowFlag p (s.reg x) (s.reg y)) s

/-- 8xy7 under any parameters (R129): the destination is `V[x]` (log entry 3). -/
def subtractReverse (p : Config.Params) (x y : Reg) (s : State) : Result :=
  writeRegFlag p x (s.reg y - s.reg x) (noBorrowFlag p (s.reg y) (s.reg x)) s

/-- 8xy4 under any parameters (R127). -/
def addRegisters (p : Config.Params) (x y : Reg) (s : State) : Result :=
  writeRegFlag p x (s.reg x + s.reg y) (carryFlag (s.reg x) (s.reg y)) s

/-- 8xy6 under any parameters (R130): a logical shift by one. -/
def shiftRight (p : Config.Params) (x y : Reg) (s : State) : Result :=
  writeRegFlag p x (s.reg (shiftOperand p x y) >>> 1) (shiftedOutRight (s.reg (shiftOperand p x y))) s

/-- 8xyE under any parameters (R131): a shift by one, truncated to 8 bits. -/
def shiftLeft (p : Config.Params) (x y : Reg) (s : State) : Result :=
  writeRegFlag p x (s.reg (shiftOperand p x y) <<< 1) (shiftedOutLeft (s.reg (shiftOperand p x y))) s

/-- 6xkk LD Vx, kk (R122). -/
def execLdImm (x : Reg) (kk : Byte) (s : State) : Result := writeReg x kk s

/-- 8xy0 LD Vx, Vy (R123). -/
def execLdReg (x y : Reg) (s : State) : Result := writeReg x (s.reg y) s

/-- 8xy1 OR Vx, Vy (R124): `VF` is not reset. -/
def execOrReg (x y : Reg) (s : State) : Result := writeReg x (s.reg x ||| s.reg y) s

/-- 8xy2 AND Vx, Vy (R125). -/
def execAndReg (x y : Reg) (s : State) : Result := writeReg x (s.reg x &&& s.reg y) s

/-- 8xy3 XOR Vx, Vy (R126). -/
def execXorReg (x y : Reg) (s : State) : Result := writeReg x (s.reg x ^^^ s.reg y) s

/-- 8xy4 ADD Vx, Vy (R127). -/
def execAddReg (x y : Reg) (s : State) : Result := addRegisters params x y s

/-- 8xy5 SUB Vx, Vy (R128). -/
def execSubReg (x y : Reg) (s : State) : Result := subtract params x y s

/-- 8xy7 SUBN Vx, Vy (R129). -/
def execSubnReg (x y : Reg) (s : State) : Result := subtractReverse params x y s

/-- 8xy6 SHR Vx (R130). -/
def execShr (x y : Reg) (s : State) : Result := shiftRight params x y s

/-- 8xyE SHL Vx (R131). -/
def execShl (x y : Reg) (s : State) : Result := shiftLeft params x y s

/-- 7xkk ADD Vx, kk (R132): wraps modulo 256, no flag. -/
def execAddImm (x : Reg) (kk : Byte) (s : State) : Result := writeReg x (s.reg x + kk) s

/-- Cxkk RND Vx, kk (R133): the drawn byte under the mask; the draw is a free value (R134). -/
def execRnd (x : Reg) (kk : Byte) (s : State) : Result := .next ((s.setReg x (s.rand &&& kk)).drawn).advance

end Sys2Proof.Machine
end

