-- ==== Sys2Proof/Machine/Control.lean ====
section
/-! DEFINITION. The control-flow instructions (40_control_flow.md R100 to R110). -/

namespace Sys2Proof.Machine

/-- 00E0 CLS (R101): every framebuffer cell 0. -/
def execCls (s : State) : Result := .next (s.setFb FrameBuffer.clear).advance

/-- 00EE RET (R102): `pc` from the popped slot, no extra advance; an empty stack raises StackUnderflow (R204). -/
def execRet (s : State) : Result :=
  match s.pop with
  | none => raise (.stackUnderflow s.pc) s
  | some (a, t) => .next (t.setPc a)

/-- 1nnn JP (R103). -/
def execJp (nnn : Addr12) (s : State) : Result := .next (s.setPc (absolute nnn))

/-- 2nnn CALL (R104): pushes `P + 2` (90_conflicts.md C1); a full stack raises StackOverflow (R203). -/
def execCall (nnn : Addr12) (s : State) : Result :=
  match s.push (s.pc + 2) with
  | none => raise (.stackOverflow s.pc) s
  | some t => .next (t.setPc (absolute nnn))

/-- 3xkk SE Vx, kk (R105). -/
def execSeImm (x : Reg) (kk : Byte) (s : State) : Result := .next (s.skipIf (s.reg x == kk))

/-- 4xkk SNE Vx, kk (R106). -/
def execSneImm (x : Reg) (kk : Byte) (s : State) : Result := .next (s.skipIf (s.reg x != kk))

/-- 5xy0 SE Vx, Vy (R107). -/
def execSeReg (x y : Reg) (s : State) : Result := .next (s.skipIf (s.reg x == s.reg y))

/-- 9xy0 SNE Vx, Vy (R108). -/
def execSneReg (x y : Reg) (s : State) : Result := .next (s.skipIf (s.reg x != s.reg y))

/-- Bnnn JP V0, nnn (R109): the sum is not reduced and not checked here; the next fetch checks it (R27). -/
def execJpV0 (nnn : Addr12) (s : State) : Result := .next (s.setPc (absolute nnn + zextByte (s.reg V0)))

end Sys2Proof.Machine
end

