-- ==== Sys2Proof/Machine/Display.lean ====
section
/-! DEFINITION. The sprite draw (44_display.md R160 to R163), as the loops of R161. -/

namespace Sys2Proof.Machine

/-- The framebuffer and the collision indicator in the course of one draw. -/
structure Blit where
  fb : FrameBuffer
  collision : Bool
  deriving DecidableEq, Repr

/-- One pixel of the loop body of R161: a 1 bit is xored into the cell, and collides where the cell was 1; a 0 bit
changes nothing (R162). -/
def Blit.pixel (d : Blit) (c : Col) (r : Row) (bit : Bool) : Blit :=
  if bit then ⟨d.fb.setCell c r (!d.fb.cell c r), d.collision || d.fb.cell c r⟩ else d

/-- The inner loop of R161: the 8 pixels of a row byte, at columns `(vx + j) mod 64`. -/
def Blit.row (p : Config.Params) (d : Blit) (vx : Byte) (r : Row) (b : Byte) : Blit :=
  (List.range 8).foldl (fun d j => d.pixel (Fin.ofNat 64 (vx.toNat + j)) r (spriteBit p b j)) d

/-- The outer loop of R161: `n` rows from memory at `a`, at rows `(vy + i) mod 32`. -/
def Blit.rows (p : Config.Params) (d : Blit) (m : Memory) (a : Nat) (vx vy : Byte) (n : Nat) : Blit :=
  (List.range n).foldl (fun d i => d.row p vx (Fin.ofNat 32 (vy.toNat + i)) (m.read (a + i))) d

/-- The whole draw: the framebuffer after it and the collision over the whole sprite (R161, R162). -/
def State.blit (p : Config.Params) (s : State) (x y : Reg) (n : Nat) : Blit :=
  Blit.rows p ⟨s.fb, false⟩ s.mem s.i.toNat (s.reg x) (s.reg y) n

/-- Dxyn under any parameters (R161). With `n` = 0 no address is touched, so nothing is checked. `VF` is written once,
after the whole sprite. -/
def drawSprite (p : Config.Params) (x y : Reg) (n : Nat) (s : State) : Result :=
  if n ≥ 1 ∧ s.i.toNat + n - 1 > 0xFFF then raise (.addressOutOfRange firstOutside s.pc) s
  else .next ((s.setFb (s.blit p x y n).fb).setReg VF (flagByte (s.blit p x y n).collision)).advance

/-- Dxyn DRW Vx, Vy, n (R161). -/
def execDrw (x y : Reg) (n : Fin 16) (s : State) : Result := drawSprite params x y n.val s

end Sys2Proof.Machine
end

