-- ==== Sys2Proof/Machine/Input.lean ====
section
/-! DEFINITION. The input instructions (45_input.md R170 to R174). -/

namespace Sys2Proof.Machine

/-- Ex9E and ExA1 under any parameters (R170, R171, R173): skip when the level of the key is `want`; a register value
that indexes no key is the error of R173. -/
def skipOnKey (p : Config.Params) (x : Reg) (want : Bool) (s : State) : Result :=
  match keyOperand p (s.reg x) with
  | none => raise (.addressOutOfRange (zextByte (s.reg x)) s.pc) s
  | some k => .next (s.skipIf (s.key k == want))

/-- Fx0A under any parameters (R172): no key pressed, nothing is written and the cycle completes with `PC` where it
was (R174); else the key's index to `V[x]` and `pc <- P + 2`. -/
def waitKey (p : Config.Params) (x : Reg) (s : State) : Result :=
  match pressedKey p s with
  | none => .next s
  | some k => .next (s.setReg x (BitVec.ofNat 8 k.val)).advance

/-- Ex9E SKP Vx (R170). -/
def execSkp (x : Reg) (s : State) : Result := skipOnKey params x true s

/-- ExA1 SKNP Vx (R171). -/
def execSknp (x : Reg) (s : State) : Result := skipOnKey params x false s

/-- Fx0A LD Vx, K (R172). -/
def execLdVxK (x : Reg) (s : State) : Result := waitKey params x s

end Sys2Proof.Machine
end

