-- ==== Sys2Proof/Machine/MemIndex.lean ====
section
/-! DEFINITION. Memory and index-register instructions (42_memory_index.md R140 to R147): each advances `PC` by 2 when
it does not raise, none writes `VF` as a flag, and Fx33, Fx55, Fx65 leave `I` unchanged (R146). -/

namespace Sys2Proof.Machine

/-- Fx1E under any parameters (R141): the sum is checked at the add, or stored unchecked in the 16 bits of `I`. -/
def addToIndex (p : Config.Params) (x : Reg) (s : State) : Result :=
  match p.iAddCheck with
  | .atAdd =>
    if s.i.toNat + (s.reg x).toNat > 0xFFF then
      raise (.addressOutOfRange (BitVec.ofNat 16 (s.i.toNat + (s.reg x).toNat)) s.pc) s
    else .next (s.setI (s.i + zextByte (s.reg x))).advance
  | .atUse => .next (s.setI (s.i + zextByte (s.reg x))).advance

/-- Fx29 under any parameters (R142): computes an address, reads no memory. -/
def pointAtGlyph (p : Config.Params) (x : Reg) (s : State) : Result :=
  match glyphDigit p (s.reg x) with
  | none => raise (.addressOutOfRange (zextByte (s.reg x)) s.pc) s
  | some d => .next (s.setI (glyphAddress d)).advance

/-- The loop of Fx65: `V[r] <- M[a + r]` for the registers listed (R145). -/
def loadList (m : Memory) (a : Nat) : List Reg → Vector Byte 16 → Vector Byte 16
  | [], v => v
  | r :: rs, v => loadList m a rs (v.set r (m.read (a + r.val)))

/-- Annn LD I, nnn (R140). -/
def execLdI (nnn : Addr12) (s : State) : Result := .next (s.setI (absolute nnn)).advance

/-- Fx1E ADD I, Vx (R141). -/
def execAddI (x : Reg) (s : State) : Result := addToIndex params x s

/-- Fx29 LD F, Vx (R142). -/
def execLdF (x : Reg) (s : State) : Result := pointAtGlyph params x s

/-- Fx33 LD B, Vx (R143): three digits at `I`, `I + 1`, `I + 2`, or the error with nothing written. -/
def execLdB (x : Reg) (s : State) : Result :=
  checkLast (s.i.toNat + 2) s (.next (s.storeBytes s.i.toNat (decimalDigits (s.reg x))).advance)

/-- Fx55 LD [I], Vx (R144): `V[0]` to `V[x]` from `I` upward, or the error with nothing written. -/
def execStoreRegs (x : Reg) (s : State) : Result :=
  checkLast (s.i.toNat + x.val) s (.next (s.storeBytes s.i.toNat ((regsUpTo x).map s.reg)).advance)

/-- Fx65 LD Vx, [I] (R145): `V[0]` to `V[x]` from memory at `I` upward, or the error with nothing written. -/
def execLoadRegs (x : Reg) (s : State) : Result :=
  checkLast (s.i.toNat + x.val) s (.next (s.setV (loadList s.mem s.i.toNat (regsUpTo x) s.v)).advance)

end Sys2Proof.Machine
end

