-- ==== Sys2Proof/Machine/Timers.lean ====
section
/-! DEFINITION. Timer instructions (43_timers.md R150 to R152). The tick of the same cycle follows them (R153) and is
the step's. -/

namespace Sys2Proof.Machine

/-- Fx07 LD Vx, DT (R150). -/
def execLdVxDT (x : Reg) (s : State) : Result := .next (s.setReg x s.dt).advance

/-- Fx15 LD DT, Vx (R151). -/
def execLdDTVx (x : Reg) (s : State) : Result := .next (s.setDt (s.reg x)).advance

/-- Fx18 LD ST, Vx (R152). -/
def execLdSTVx (x : Reg) (s : State) : Result := .next (s.setSt (s.reg x)).advance

end Sys2Proof.Machine
end

