-- ==== Sys2Proof/Machine/Step.lean ====
section
/-! DEFINITION. One cycle (30_encoding.md R85, 00_scope.md R8): fetch, decode, execute, tick, as one indivisible step;
an error in one of the first three ends it with no state changed and no tick (R206, R209). -/

namespace Sys2Proof.Machine

/-- `execute_cycle()` (R85). -/
def step (s : State) : Host.Outcome State Fault Refusal :=
  match s.fetch with
  | .error f => raise f s
  | .ok op =>
    match decode op with
    | none => raise (.unknownOpcode op s.pc) s
    | some i => tickAfter (exec i s)

/-- The host's question: `s` with the instruction whose bits are `w` stored where `step` fetches next, high byte at
`PC` and low byte at `PC + 1` (R52). Nothing else is changed (log entry 28). -/
def State.withFetchWord (s : State) (nbits w : Nat) : State :=
  s.storeBytes s.pc.toNat [opHigh (BitVec.ofNat 16 (w % 2 ^ nbits)), opLow (BitVec.ofNat 16 (w % 2 ^ nbits))]

end Sys2Proof.Machine
end

