-- ==== Sys2Proof/Machine/Boot.lean ====
section
/-! DEFINITION. The two boot operations and the boot (70_reset_and_hazards.md R240 to R246). They are not opcodes. -/

namespace Sys2Proof.Machine

/-- GLYPH_BASE (R6). -/
def glyphBase : Nat := 0x000

/-- PROG_BASE (R6). -/
def programBase : Nat := 0x200

/-- A later reset (R240, R247): every piece of state of R38 as at the first construction, nothing of the earlier run
remaining. The random input is outside the core (R39) and is not set back: the free values go on, so that no draw after
the reset is one made before it (R134). DESIGN CHOICE, log entries 16 and 23. -/
def State.reconstruct (s : State) : State := { State.reset with draws := s.draws }

/-- `load_glyphs()` under any parameters (R242): writes the glyph table from address 0; always succeeds. -/
def loadGlyphsWith (p : Config.Params) (s : State) : State := s.storeBytes glyphBase p.glyphTable

/-- `load_glyphs()` (R242). -/
def loadGlyphs (s : State) : State := loadGlyphsWith params s

/-- `load_program(bytes)` (R243): byte `j` of the image to address 0x200 + `j`; an image over 3584 bytes raises
OversizedProgram with nothing written (R201). -/
def loadProgram (image : List Byte) (s : State) : Result :=
  if imageWellFormed image then .next (s.storeBytes programBase image)
  else raise (.oversizedProgram image.length) s

/-- The boot: construct, `load_glyphs`, `load_program` (R244). -/
def boot (image : List Byte) : Result := loadProgram image (loadGlyphs State.reset)

end Sys2Proof.Machine
end

