-- ==== Sys2Proof/Machine/HostPort.lean ====
section
/-! DEFINITION. The host interface (60_exceptions.md R220 to R226): key input, the answer of a cycle with its codes
(R207, R224), the cycle as a total function that leaves the state alone on an error (R206, R210, R211), runs with the
keys the host supplies before each cycle (R221), and the host's protocol as a machine of its own (R226, R244). -/

namespace Sys2Proof.Machine

/-- Key input: before a cycle the host sets all sixteen keys (R221). -/
def State.setKeys (s : State) (k : Keys) : State := { s with keys := k }

/-- The error code of R207; 0 is no error. -/
def Fault.code : Fault → Nat
  | .oversizedProgram _ => 1
  | .unknownOpcode _ _ => 2
  | .stackOverflow _ => 3
  | .stackUnderflow _ => 4
  | .addressOutOfRange _ _ => 5

/-- The result output (R224). -/
inductive Answer where
  /-- The cycle, the load or the key input completed. -/
  | completed
  /-- The error reported. -/
  | error (f : Fault)
  /-- The model declines the request. -/
  | refused (r : Refusal)
  deriving DecidableEq, Repr

/-- The code of an answer (R207); a refusal is the model's and has none. -/
def Answer.code : Answer → Option Nat
  | .completed => some 0
  | .error f => some f.code
  | .refused _ => none

/-- The state the host holds after an outcome, and the answer it gets: an error leaves the state as it was (R206). -/
def settle (s : State) : Result → State × Answer
  | .next t => (t, .completed)
  | .fault f => (s, .error f)
  | .refused r => (s, .refused r)

/-- One cycle request (R220, R224): total, and after an error the core accepts further requests (R211). -/
def executeCycle (s : State) : State × Answer := settle s (step s)

/-- One cycle with the keys the host supplies before it (R221). -/
def stepWithKeys (k : Keys) (s : State) : Result := step (s.setKeys k)

/-- A run: one cycle for each key input supplied, ending at the first error (R211, R221). -/
def runWithKeys : List Keys → State → Result
  | [], s => .next s
  | k :: ks, s =>
    match stepWithKeys k s with
    | .next t => runWithKeys ks t
    | .fault f => .fault f
    | .refused r => .refused r

/-- Where the host stands in the boot order (R244). -/
inductive Phase where
  | constructed
  | glyphsLoaded
  | running
  | loadFailed
  deriving DecidableEq, Repr

/-- The state container and the host's place in the boot order. -/
structure Session where
  state : State
  phase : Phase
  deriving DecidableEq, Repr

/-- What the host may do (R226). -/
inductive HostMove where
  /-- Construct anew (R240, R247; `State.reconstruct`). -/
  | reset
  | loadGlyphs
  | loadProgram (image : List Byte)
  | setKeys (k : Keys)
  | cycle
  deriving DecidableEq, Repr

/-- The session right after the first construction (R240). -/
def Session.start : Session := ⟨State.reset, .constructed⟩

/-- One move of the host (R226, R244, R247). Each load is done once, in the boot order; any other load is refused
(D28, A22), and so is a cycle before a successful `load_program` (A28; log entry 26). A reset does not set the random
input back (log entries 16, 23). -/
def Session.move (h : Session) : HostMove → Session × Answer
  | .reset => (⟨h.state.reconstruct, .constructed⟩, .completed)
  | .loadGlyphs =>
    match h.phase with
    | .constructed => (⟨loadGlyphs h.state, .glyphsLoaded⟩, .completed)
    | .glyphsLoaded | .running | .loadFailed => (h, .refused .loadOutOfOrder)
  | .loadProgram image =>
    match h.phase with
    | .glyphsLoaded =>
      match loadProgram image h.state with
      | .next t => (⟨t, .running⟩, .completed)
      | .fault f => (⟨h.state, .loadFailed⟩, .error f)
      | .refused r => (h, .refused r)
    | .constructed | .running | .loadFailed => (h, .refused .loadOutOfOrder)
  | .setKeys k => (⟨h.state.setKeys k, h.phase⟩, .completed)
  | .cycle =>
    match h.phase with
    | .running => (⟨(executeCycle h.state).1, .running⟩, (executeCycle h.state).2)
    | .constructed | .glyphsLoaded | .loadFailed => (h, .refused .notBooted)

end Sys2Proof.Machine
end

