-- ==== Sys2Proof/Safety.lean ====
section
/-! DEFINITION. The terms claims are stated in: the invariant of reachable states (10_state.md R40), what a step may
leave unchanged (frames), and the spec's own convention for the end of a run (70_reset_and_hazards.md R256). -/

namespace Sys2Proof.Safety

open Sys2Proof Sys2Proof.Machine

/-! ### Frames: each says that the second state reads as the first -/

/-- The registers other than those `written` names. -/
def KeepsRegs (written : Reg → Prop) (s t : State) : Prop := ∀ r, ¬ written r → t.reg r = s.reg r

/-- No register was written. -/
def KeepsAllRegs (s t : State) : Prop := ∀ r, t.reg r = s.reg r

/-- The index register. -/
def KeepsI (s t : State) : Prop := t.i = s.i

/-- The depth and every slot of the call stack. -/
def KeepsStack (s t : State) : Prop := t.sp = s.sp ∧ ∀ j, t.slot j = s.slot j

/-- Both timers. -/
def KeepsTimers (s t : State) : Prop := t.dt = s.dt ∧ t.st = s.st

/-- Every byte of memory. -/
def KeepsMemory (s t : State) : Prop := ∀ a, t.byte a = s.byte a

/-- Every byte of memory but the `len` bytes from `a`. -/
def KeepsMemoryBut (a len : Nat) (s t : State) : Prop := ∀ b, (b < a ∨ a + len ≤ b) → t.byte b = s.byte b

/-- Every cell of the framebuffer. -/
def KeepsScreen (s t : State) : Prop := ∀ c r, t.cell c r = s.cell c r

/-- Every key state. -/
def KeepsKeys (s t : State) : Prop := ∀ k, t.key k = s.key k

/-- The count of random bytes taken. -/
def KeepsDraws (s t : State) : Prop := t.draws = s.draws

/-- Everything but the registers and `PC`. -/
def KeepsButRegs (s t : State) : Prop :=
  KeepsI s t ∧ KeepsStack s t ∧ KeepsTimers s t ∧ KeepsMemory s t ∧ KeepsScreen s t ∧ KeepsKeys s t ∧ KeepsDraws s t

/-- Everything but `PC`. -/
def KeepsButPc (s t : State) : Prop := KeepsAllRegs s t ∧ KeepsButRegs s t

/-- Everything but `PC` and the index register. -/
def KeepsButI (s t : State) : Prop :=
  KeepsAllRegs s t ∧ KeepsStack s t ∧ KeepsTimers s t ∧ KeepsMemory s t ∧ KeepsScreen s t ∧ KeepsKeys s t ∧ KeepsDraws s t

/-- Everything but `PC` and memory. -/
def KeepsButMemory (s t : State) : Prop :=
  KeepsAllRegs s t ∧ KeepsI s t ∧ KeepsStack s t ∧ KeepsTimers s t ∧ KeepsScreen s t ∧ KeepsKeys s t ∧ KeepsDraws s t

/-- Everything but the two timers. -/
def KeepsButTimers (s t : State) : Prop :=
  t.pc = s.pc ∧ KeepsAllRegs s t ∧ KeepsI s t ∧ KeepsStack s t ∧ KeepsMemory s t ∧ KeepsScreen s t ∧ KeepsKeys s t
    ∧ KeepsDraws s t

/-- Everything but `PC` and the framebuffer. -/
def KeepsButScreen (s t : State) : Prop :=
  KeepsAllRegs s t ∧ KeepsI s t ∧ KeepsStack s t ∧ KeepsTimers s t ∧ KeepsMemory s t ∧ KeepsKeys s t ∧ KeepsDraws s t

/-- Everything but `PC` and the call stack. -/
def KeepsButStack (s t : State) : Prop :=
  KeepsAllRegs s t ∧ KeepsI s t ∧ KeepsTimers s t ∧ KeepsMemory s t ∧ KeepsScreen s t ∧ KeepsKeys s t ∧ KeepsDraws s t

/-- Everything but `PC`, the registers and the framebuffer. -/
def KeepsButRegsScreen (s t : State) : Prop :=
  KeepsI s t ∧ KeepsStack s t ∧ KeepsTimers s t ∧ KeepsMemory s t ∧ KeepsKeys s t ∧ KeepsDraws s t

/-- Everything but `PC`, the registers and the count of random bytes. -/
def KeepsButRegsDraws (s t : State) : Prop :=
  KeepsI s t ∧ KeepsStack s t ∧ KeepsTimers s t ∧ KeepsMemory s t ∧ KeepsScreen s t ∧ KeepsKeys s t

/-- Everything but `PC` and the timers. -/
def KeepsButPcTimers (s t : State) : Prop :=
  KeepsAllRegs s t ∧ KeepsI s t ∧ KeepsStack s t ∧ KeepsMemory s t ∧ KeepsScreen s t ∧ KeepsKeys s t ∧ KeepsDraws s t

/-- The operation completes with `V[x]` = `b` and `PC` = `P + 2`, and leaves everything else as it was. -/
def WritesReg (x : Reg) (b : Byte) (s : State) (r : Result) : Prop :=
  ∃ t, r = .next t ∧ t.reg x = b ∧ t.pc = s.pc + 2 ∧ KeepsRegs (· = x) s t ∧ KeepsButRegs s t

/-- The operation completes with the number `v` in `V[x]` (unless `x` is `VF`), the flag `f` in `VF`, `PC` = `P + 2`,
and leaves everything else as it was. -/
def WritesRegFlag (x : Reg) (v : Nat) (f : Prop) (s : State) (r : Result) : Prop :=
  ∃ t, r = .next t ∧ (x ≠ VF → (t.reg x).toNat = v) ∧ (f → t.reg VF = 1) ∧ (¬ f → t.reg VF = 0) ∧
    t.pc = s.pc + 2 ∧ KeepsRegs (fun r => r = x ∨ r = VF) s t ∧ KeepsButRegs s t

/-- The operation completes with `PC` = `P + 4` when `c` holds and `P + 2` when it does not, and leaves everything else
as it was (R100). -/
def SkipsWhen (c : Prop) (s : State) (r : Result) : Prop :=
  ∃ t, r = .next t ∧ (c → t.pc = s.pc + 4) ∧ (¬ c → t.pc = s.pc + 2) ∧ KeepsButPc s t

/-! ### The invariant of reachable states -/

/-- A slot holds 0 or `P + 2` for a `P` the fetch lets through (R40). -/
abbrev slotLegal (w : Word) : Prop := w.toNat = 0 ∨ (2 ≤ w.toNat ∧ w.toNat ≤ 0x1000)

/-- What holds of every state reachable from reset (R40; `SP` within 0 to 16 and the byte widths are in the types), and
the model's own: the memory list is in its canonical form. -/
abbrev Inv (s : State) : Prop :=
  s.i.toNat ≤ 0xFFF ∧ s.pc.toNat ≤ 0x10FE ∧ (∀ j : Fin 16, slotLegal (s.slot j)) ∧ s.mem.wf = true

/-! ### Outcomes -/

/-- The cycle completes (R224). -/
def Completes (s : State) : Prop := ∃ t, step s = .next t

/-- The cycle reports an error (R224). -/
def Reports (s : State) (f : Fault) : Prop := step s = .fault f

/-- An outcome with its next state, if any, rewritten by `g`. -/
def mapNext (g : State → State) : Result → Result
  | .next t => .next (g t)
  | .fault f => .fault f
  | .refused r => .refused r

/-- A program has reached its end: `PC` = `A` and the opcode at `A` is a jump to `A` (R256, the spec's own convention,
D25; log entry 34). -/
def AtSelfJump (s : State) : Prop := ∃ nnn : Addr12, s.pc = absolute nnn ∧ s.fetch = .ok (encode (.jp nnn))

/-- No key is pressed (R172). -/
def noKeys : Keys := Vector.replicate 16 false

/-! ### The sprite of a draw, pixel by pixel -/

/-- The cell in column `c` and row `r` is under a 1 bit of the sprite of `n` rows at (`V[x]`, `V[y]`): the closed form
of the two loops of R161, most significant bit first (R160). -/
def Lit (s : State) (x y : Reg) (n : Nat) (c : Col) (r : Row) : Prop :=
  ∃ i j : Nat, i < n ∧ j < 8 ∧ r.val = ((s.reg y).toNat + i) % 32 ∧ c.val = ((s.reg x).toNat + j) % 64 ∧
    (s.byte (s.i.toNat + i)).toNat / 2 ^ (7 - j) % 2 = 1

end Sys2Proof.Safety
end

