-- ==== Sys2Proof/Certificates/Slice0/Obligations.lean ====
section
/-! DEFINITION. The statements for the provers, one per rule or group of rules of spec/ (OBLIGATIONS.json names them). -/

open Sys2Proof Sys2Proof.Machine Sys2Proof.Safety

/-- For each of the 34 instructions and every value of its operands, decoding its opcode gives the instruction, and
decoding its two bytes with any bytes after them gives the instruction and those bytes. The bit patterns are the
standard CHIP-8 ones the spec supplies (log entry 1). (R70, R72, R73, R78, 92_eei_decisions.md D1,
92_eei_decisions.md D2) -/
def Obligations.DecodeOfEncodeIsTheInstruction : Prop :=
  ∀ (i : Instr) (rest : List Byte),
    decode (encode i) = some i ∧ decodeBytes (encodeBytes i ++ rest) = .ok (i, rest)

/-- Every 16-bit word that decodes to an instruction is that instruction's opcode: no bit is dropped, and no two words
decode to one instruction (strict decode, log entry 2; y of the shifts is kept though not used). (R78, R80, R82,
92_eei_decisions.md D1, 92_eei_decisions.md D2) -/
def Obligations.EncodeOfDecodeIsTheOpcode : Prop :=
  ∀ (op : Word) (i : Instr), decode op = some i → encode i = op

/-- At most one row of the opcode map selects an opcode; an opcode that decodes is selected by the row of its
instruction, which is one of the 34; an opcode that does not decode is selected by no row (patterns and strictness:
log entries 1, 2). (R78, R87, 92_eei_decisions.md D1, 92_eei_decisions.md D2) -/
def Obligations.DecodeSelectsTheUniqueRow : Prop :=
  ∀ op : Word,
    (∀ a ∈ opcodeRows, ∀ b ∈ opcodeRows, a.selects op = true → b.selects op = true → a = b) ∧
    (∀ i, decode op = some i → i.row ∈ opcodeRows ∧ i.row.selects op = true) ∧
    (decode op = none → ∀ a ∈ opcodeRows, a.selects op = false)

/-- An opcode does not decode exactly when it is: in family 0 and not 00E0 or 00EE; in family 5 or 9 with a low nibble
that is not 0; in family 8 with low nibble 8, 9, A, B, C, D or F; in family E with a low byte other than 9E and A1;
in family F with a low byte outside the nine listed (strict decode, log entry 2). (R80, R81, 92_eei_decisions.md D1,
92_eei_decisions.md D2) -/
def Obligations.UnknownOpcodesAreExactlyTheListed : Prop :=
  ∀ op : Word, decode op = none ↔
    (op.toNat / 4096 = 0x0 ∧ op.toNat ≠ 0x00E0 ∧ op.toNat ≠ 0x00EE) ∨
    (op.toNat / 4096 = 0x5 ∧ op.toNat % 16 ≠ 0) ∨
    (op.toNat / 4096 = 0x8 ∧ op.toNat % 16 ∈ [0x8, 0x9, 0xA, 0xB, 0xC, 0xD, 0xF]) ∨
    (op.toNat / 4096 = 0x9 ∧ op.toNat % 16 ≠ 0) ∨
    (op.toNat / 4096 = 0xE ∧ op.toNat % 256 ∉ [0x9E, 0xA1]) ∨
    (op.toNat / 4096 = 0xF ∧ op.toNat % 256 ∉ [0x07, 0x0A, 0x15, 0x18, 0x1E, 0x29, 0x33, 0x55, 0x65])

/-- One word of each of the six formats and of each of the sixteen families (highest nibble 0 to F), written out from
the map, decodes to the instruction it stands for (patterns: log entry 1). (30_encoding.md section 3,
95_test_vectors.md part 2, 92_eei_decisions.md D1) -/
def Obligations.SampleWordsDecode : Prop :=
  decode 0b0000000011100000 = some .cls ∧
    decode 0b0001001000110100 = some (.jp 0x234) ∧
    decode 0b0010101010111100 = some (.call 0xABC) ∧
    decode 0b0011101001111111 = some (.seImm 0xA 0x7F) ∧
    decode 0b0100101001111111 = some (.sneImm 0xA 0x7F) ∧
    decode 0b0101101010110000 = some (.seReg 0xA 0xB) ∧
    decode 0b0110111100010010 = some (.ldImm 0xF 0x12) ∧
    decode 0b0111000000000001 = some (.addImm 0x0 0x01) ∧
    decode 0b1000000100100101 = some (.subReg 1 2) ∧
    decode 0b1001101010110000 = some (.sneReg 0xA 0xB) ∧
    decode 0b1010000100100011 = some (.ldI 0x123) ∧
    decode 0b1011000100100011 = some (.jpV0 0x123) ∧
    decode 0b1100111111111111 = some (.rnd 0xF 0xFF) ∧
    decode 0b1101101010111100 = some (.drw 0xA 0xB 0xC) ∧
    decode 0b1110000110100001 = some (.sknp 1) ∧
    decode 0b1111010100010101 = some (.ldDTVx 5) ∧
    decode 0b1111000101010101 = some (.storeRegs 1)

/-- When PC + 1 is inside memory and the two bytes there decode to an instruction, the cycle is that instruction's
execution: if it completes, the cycle completes with the timers then lowered by one each while above zero (natural
subtraction stops at zero) and everything else as the instruction left it; if it raises an error, the cycle reports
that error. (R85, R86, R87, R88, R215, 92_eei_decisions.md D13) -/
def Obligations.StepRunsTheDecodedInstruction : Prop :=
  ∀ (s : State) (i : Instr), s.pc.toNat + 1 ≤ 0xFFF →
    decode (opcodeOf (s.byte s.pc.toNat) (s.byte (s.pc.toNat + 1))) = some i →
    (∀ t, exec i s = .next t → ∃ u, step s = .next u ∧
      u.dt.toNat = t.dt.toNat - 1 ∧ u.st.toNat = t.st.toNat - 1 ∧ KeepsButTimers t u) ∧
    (∀ f, exec i s = .fault f → step s = .fault f) ∧
    (∀ r, exec i s = .refused r → step s = .refused r)

/-- For every state with PC + 1 inside memory and every instruction: storing its opcode at PC changes those two bytes
only, and the next cycle is that instruction's execution and the tick, odd PC included (the model's withFetchWord,
log entry 28; that an odd PC runs is decision D12, log entry 12; patterns D1, log entry 1). (R52, R54, R62, R85,
R86, 92_eei_decisions.md D1, 92_eei_decisions.md D12) -/
def Obligations.PlacedInstructionRunsNext : Prop :=
  ∀ (s : State) (i : Instr), s.pc.toNat + 1 ≤ 0xFFF →
    step (s.withFetchWord 16 (encode i).toNat) = tickAfter (exec i (s.withFetchWord 16 (encode i).toNat)) ∧
    (s.withFetchWord 16 (encode i).toNat).pc = s.pc ∧
    KeepsMemoryBut s.pc.toNat 2 s (s.withFetchWord 16 (encode i).toNat) ∧
    KeepsButMemory s (s.withFetchWord 16 (encode i).toNat)

/-- For every state whose PC + 1 is inside memory, odd or even, the fetch gives the opcode whose high byte is the byte
at PC and whose low byte is the byte at PC + 1; so with a program image just loaded the fetch at 0x200 + j gives the
opcode of image bytes j and j + 1, high byte first, with no header (that an odd PC fetches as an even one is
decision D12, log entry 12). (R52, R54, R86, R243, 92_eei_decisions.md D12) -/
def Obligations.FetchIsBigEndian : Prop :=
  (∀ s : State, s.pc.toNat + 1 ≤ 0xFFF →
    ∃ op, s.fetch = .ok op ∧ op.toNat = (s.byte s.pc.toNat).toNat * 256 + (s.byte (s.pc.toNat + 1)).toNat) ∧
  (∀ (image : List Byte) (s : State) (j : Nat), image.length ≤ 3584 → j + 1 < image.length →
    s.pc.toNat = 0x200 + j → ∃ t op, loadProgram image s = .next t ∧ t.fetch = .ok op ∧
      op.toNat = (image.getD j 0).toNat * 256 + (image.getD (j + 1) 0).toNat)

/-- For every state with PC + 1 > 0xFFF the cycle reports AddressOutOfRange with addr the greater of PC and 0x1000 and
pc = PC, whatever bytes lie there (payload: the spec's choice D14, log entry 14). (R86, R209, 92_eei_decisions.md
D12, 92_eei_decisions.md D14) -/
def Obligations.FetchOutsideMemoryIsReported : Prop :=
  ∀ s : State, s.pc.toNat + 1 > 0xFFF →
    step s = .fault (.addressOutOfRange (BitVec.ofNat 16 (max s.pc.toNat 0x1000)) s.pc)

/-- Whenever the fetch gives an opcode, the cycle reports UnknownOpcode carrying that opcode and PC if and only if the
opcode does not decode; no instruction raises it (which opcodes do not decode: log entry 2). (R87, R202, R209,
92_eei_decisions.md D2) -/
def Obligations.UnknownOpcodeIsReported : Prop :=
  ∀ (s : State) (op : Word), s.fetch = .ok op →
    ((step s = .fault (.unknownOpcode op s.pc)) ↔ decode op = none)

/-- Every cycle that completes executed a decoded instruction and then, from the values that instruction left, lowered
DT by one if above zero and ST by one if above zero, each on its own, and changed nothing else; a cycle that reports
an error leaves DT and ST as they were (no tick in a failing cycle: decision D13, log entry 13; the tick in the
cycles in which Fx0A waits: C10 and decision D24, log entry 24). (R215, R206, R174, 90_conflicts.md C10,
92_eei_decisions.md D13, 92_eei_decisions.md D24) -/
def Obligations.CompletedCycleTicksBothTimers : Prop :=
  (∀ s u : State, step s = .next u → ∃ op i t, s.fetch = .ok op ∧ decode op = some i ∧ exec i s = .next t ∧
    (t.dt.toNat > 0 → u.dt.toNat = t.dt.toNat - 1) ∧ (t.dt.toNat = 0 → u.dt = 0) ∧
    (t.st.toNat > 0 → u.st.toNat = t.st.toNat - 1) ∧ (t.st.toNat = 0 → u.st = 0) ∧ KeepsButTimers t u) ∧
  (∀ (s : State) (f : Fault), (executeCycle s).2 = .error f →
    (executeCycle s).1.dt = s.dt ∧ (executeCycle s).1.st = s.st)

/-- When a cycle reports an error, the state the host holds after it is the state before it, and a further cycle reports
the same error, under any key states and at any point of the random input (decisions D13, D15: log entries 13, 15).
(R206, R211, 92_eei_decisions.md D13, 92_eei_decisions.md D15) -/
def Obligations.FailingCycleWritesNothingAndRepeats : Prop :=
  ∀ (s : State) (f : Fault), step s = .fault f →
    executeCycle s = (s, .error f) ∧
    ∀ (k : Keys) (n : Nat), executeCycle ({ s with keys := k, draws := n } : State)
      = (({ s with keys := k, draws := n } : State), .error f)

/-- An instruction raises an error exactly in the cases of the table of 60_exceptions.md section 1, with the payload of
R207, and no instruction is refused (payloads, key index, check of Fx1E: the spec's decisions D9, D11, D14; log
entries 9, 11, 14). (R203, R204, R205, R207, R55, 92_eei_decisions.md D9, 92_eei_decisions.md D11,
92_eei_decisions.md D14) -/
def Obligations.OperationErrorsExactly : Prop :=
  ∀ (i : Instr) (s : State),
    (∀ r, exec i s ≠ .refused r) ∧
    ∀ f, exec i s = .fault f ↔
      (∃ nnn, i = .call nnn ∧ s.sp.val = 16 ∧ f = .stackOverflow s.pc) ∨
      (i = .ret ∧ s.sp.val = 0 ∧ f = .stackUnderflow s.pc) ∨
      (∃ x y n, i = .drw x y n ∧ n.val ≥ 1 ∧ s.i.toNat + n.val - 1 > 0xFFF ∧ f = .addressOutOfRange 0x1000 s.pc) ∨
      (∃ x, i = .ldB x ∧ s.i.toNat + 2 > 0xFFF ∧ f = .addressOutOfRange 0x1000 s.pc) ∨
      (∃ x, (i = .storeRegs x ∨ i = .loadRegs x) ∧ s.i.toNat + x.val > 0xFFF ∧ f = .addressOutOfRange 0x1000 s.pc) ∨
      (∃ x, i = .addI x ∧ s.i.toNat + (s.reg x).toNat > 0xFFF ∧
        f = .addressOutOfRange (BitVec.ofNat 16 (s.i.toNat + (s.reg x).toNat)) s.pc) ∨
      (∃ x, (i = .skp x ∨ i = .sknp x) ∧ (s.reg x).toNat > 15 ∧
        f = .addressOutOfRange (BitVec.ofNat 16 (s.reg x).toNat) s.pc)

/-- For every instruction and state: it raises StackOverflow if and only if it is a CALL and SP is 16; it raises
StackUnderflow if and only if it is RET and SP is 0. (R203, R204) -/
def Obligations.StackErrorsOnlyFromCallAndReturn : Prop :=
  ∀ (i : Instr) (s : State),
    ((∃ p, exec i s = .fault (.stackOverflow p)) ↔ ((∃ nnn, i = .call nnn) ∧ s.sp.val = 16)) ∧
    ((∃ p, exec i s = .fault (.stackUnderflow p)) ↔ (i = .ret ∧ s.sp.val = 0))

/-- If I is at most 0xFFF, PC at most 0x10FE, every stack slot 0 or a value 2 to 0x1000, and the memory list in its
canonical form, then the same holds after every cycle that completes, whatever the keys and the random byte (R40 is
the spec's own inference; canonical form: log entry 27). (R23, R27, R30, R40, 92_eei_decisions.md D11,
92_eei_decisions.md D12) -/
def Obligations.InvariantKeptByEveryCycle : Prop :=
  ∀ s t : State, Inv s → step s = .next t → Inv t

/-- The reset state meets the invariant, and so does the state after the boot with every image of at most 3584 bytes.
(R38, R40, R243, R244, 92_eei_decisions.md D7) -/
def Obligations.ResetMeetsTheInvariant : Prop :=
  Inv State.reset ∧ ∀ image : List Byte, image.length ≤ 3584 → ∃ t, boot image = .next t ∧ Inv t

/-- The session right after construction meets the invariant; from every session that meets it, reachable or not, every
host move (a reset, either load with any image, key input, a cycle, also one that reports an error or is refused)
leads to one that meets it; so does every finite sequence of moves (the protocol: log entry 26; R40 is the spec's
own inference, log entry 33). (R40, R206, R226, R244, 92_eei_decisions.md D13, 92_eei_decisions.md D28) -/
def Obligations.EveryHostHistoryKeepsTheInvariant : Prop :=
  Inv Session.start.state ∧
  (∀ (h : Session) (m : HostMove), Inv h.state → Inv (h.move m).1.state) ∧
  (∀ (h : Session) (moves : List HostMove), Inv h.state →
    Inv (moves.foldl (fun h m => (h.move m).1) h).state)

/-- When an instruction completes: the framebuffer differs only after CLS or DRW; memory only after Fx33 or Fx55; I only
after Annn, Fx1E or Fx29; a stack slot only after CALL, SP only after CALL or RET; DT only after Fx15, ST only after
Fx18; no instruction changes a key; the count of draws (the model's own) differs only after Cxkk. (R23, R28, R32,
R50, R163, R216, 92_eei_decisions.md D20) -/
def Obligations.OnlyTheNamedInstructionsWrite : Prop :=
  ∀ (i : Instr) (s t : State), exec i s = .next t →
    (¬ KeepsScreen s t → i = .cls ∨ ∃ x y n, i = .drw x y n) ∧
    (¬ KeepsMemory s t → ∃ x, i = .ldB x ∨ i = .storeRegs x) ∧
    (¬ KeepsI s t → (∃ nnn, i = .ldI nnn) ∨ ∃ x, i = .addI x ∨ i = .ldF x) ∧
    (∀ j, t.slot j ≠ s.slot j → ∃ nnn, i = .call nnn) ∧
    (t.sp ≠ s.sp → i = .ret ∨ ∃ nnn, i = .call nnn) ∧
    (t.dt ≠ s.dt → ∃ x, i = .ldDTVx x) ∧ (t.st ≠ s.st → ∃ x, i = .ldSTVx x) ∧
    KeepsKeys s t ∧ (t.draws ≠ s.draws → ∃ x kk, i = .rnd x kk)

/-- When an instruction completes and VF differs, it is one of 8xy4, 8xy5, 8xy6, 8xy7, 8xyE, Dxyn, or its destination is
VF (x = 15), Fx65 with x = 15 among them. (R21, R35, R124, R125, R126, R132, 92_eei_decisions.md D20) -/
def Obligations.OnlyTheNamedInstructionsWriteVF : Prop :=
  ∀ (i : Instr) (s t : State), exec i s = .next t → t.reg VF ≠ s.reg VF →
    (∃ x y, i = .addReg x y ∨ i = .subReg x y ∨ i = .shr x y ∨ i = .subnReg x y ∨ i = .shl x y) ∨
    (∃ x y n, i = .drw x y n) ∨
    (∃ kk, i = .ldImm VF kk ∨ i = .addImm VF kk ∨ i = .rnd VF kk) ∨
    (∃ y, i = .ldReg VF y ∨ i = .orReg VF y ∨ i = .andReg VF y ∨ i = .xorReg VF y) ∨
    i = .ldVxDT VF ∨ i = .ldVxK VF ∨ i = .loadRegs VF

/-- For every instruction other than Ex9E, ExA1 and Fx0A, changing the key states changes nothing of the outcome but the
key states themselves. (R32, R208, 10_state.md section 7) -/
def Obligations.KeysReachOnlyTheInputInstructions : Prop :=
  ∀ (i : Instr) (s : State) (k : Keys), (∀ x, i ≠ .skp x ∧ i ≠ .sknp x ∧ i ≠ .ldVxK x) →
    exec i (s.setKeys k) = mapNext (fun t => t.setKeys k) (exec i s)

/-- For every instruction other than Cxkk, the point of the random input (the model's own counter, log entry 16) changes
nothing of the outcome but itself. (R222, R89, 92_eei_decisions.md D16) -/
def Obligations.RandomInputReachesOnlyRandom : Prop :=
  ∀ (i : Instr) (s : State) (n : Nat), (∀ x kk, i ≠ .rnd x kk) →
    exec i ({ s with draws := n } : State) = mapNext (fun t => { t with draws := n }) (exec i s)

/-- For every instruction and every two values of ST, the outcomes agree in everything but ST: no instruction reads it.
(R216, R218, R31) -/
def Obligations.SoundTimerIsNeverRead : Prop :=
  ∀ (i : Instr) (s : State) (b : Byte),
    mapNext (fun t => t.setSt 0) (exec i (s.setSt b)) = mapNext (fun t => t.setSt 0) (exec i s)

/-- From every state CLS completes with every framebuffer cell 0 and PC = P + 2; no register, I, stack, timer, byte of
memory or key changes. (R101) -/
def Obligations.ClearScreenClearsEveryCell : Prop :=
  ∀ s : State, ∃ t, exec .cls s = .next t ∧ (∀ c r, t.cell c r = false) ∧ t.pc = s.pc + 2 ∧ KeepsButScreen s t

/-- From every state 1nnn completes with PC = nnn, for every nnn, odd or even; nothing else changes. (R103) -/
def Obligations.JumpSetsPc : Prop :=
  ∀ (nnn : Addr12) (s : State), ∃ t, exec (.jp nnn) s = .next t ∧ t.pc.toNat = nnn.toNat ∧ KeepsButPc s t

/-- When SP is below 16, 2nnn completes with P + 2 in slot SP, every other slot as before, SP one higher, PC = nnn, and
nothing else changed (what is pushed: 90_conflicts.md C1, log entry 17). (R104, R30, 90_conflicts.md C1,
92_eei_decisions.md D17) -/
def Obligations.CallPushesTheReturnAddress : Prop :=
  ∀ (nnn : Addr12) (s : State) (j : Fin 16), s.sp.val = j.val →
    ∃ t, exec (.call nnn) s = .next t ∧ t.slot j = s.pc + 2 ∧ (∀ k, k ≠ j → t.slot k = s.slot k) ∧
      t.sp.val = j.val + 1 ∧ t.pc.toNat = nnn.toNat ∧ KeepsButStack s t

/-- When SP is j + 1, RET completes with PC = S[j], SP = j, every slot keeping its value and nothing else changed; when
SP is 0 it raises StackUnderflow. (R102) -/
def Obligations.ReturnRestoresThePoppedSlot : Prop :=
  (∀ (s : State) (j : Fin 16), s.sp.val = j.val + 1 →
    ∃ t, exec .ret s = .next t ∧ t.pc = s.slot j ∧ t.sp.val = j.val ∧ (∀ k, t.slot k = s.slot k) ∧ KeepsButStack s t) ∧
  (∀ s : State, s.sp.val = 0 → ∃ p, exec .ret s = .fault (.stackUnderflow p))

/-- After a CALL at P below depth 16, a RET executed in any later state whose depth and slots are those the CALL left
completes with PC = P + 2 and the depth as before the CALL. (R102, R104, 95_test_vectors.md S9, 92_eei_decisions.md
D17) -/
def Obligations.CallThenReturnRoundTrip : Prop :=
  ∀ (nnn : Addr12) (s : State), s.sp.val < 16 → ∃ t, exec (.call nnn) s = .next t ∧
    ∀ u : State, u.sp = t.sp → (∀ j, u.slot j = t.slot j) →
      ∃ w, exec .ret u = .next w ∧ w.pc = s.pc + 2 ∧ w.sp = s.sp

/-- From every state 3xkk completes with PC = P + 4 when V[x] = kk and P + 2 when not, 4xkk the other way round; nothing
but PC is written. (R105, R106) -/
def Obligations.SkipOnImmediate : Prop :=
  ∀ (x : Reg) (kk : Byte) (s : State),
    SkipsWhen ((s.reg x).toNat = kk.toNat) s (exec (.seImm x kk) s) ∧
    SkipsWhen ((s.reg x).toNat ≠ kk.toNat) s (exec (.sneImm x kk) s)

/-- From every state 5xy0 completes with PC = P + 4 when V[x] = V[y] and P + 2 when not, 9xy0 the other way round;
nothing but PC is written. (R107, R108) -/
def Obligations.SkipOnRegisters : Prop :=
  ∀ (x y : Reg) (s : State),
    SkipsWhen ((s.reg x).toNat = (s.reg y).toNat) s (exec (.seReg x y) s) ∧
    SkipsWhen ((s.reg x).toNat ≠ (s.reg y).toNat) s (exec (.sneReg x y) s)

/-- From every state Bnnn completes with PC = nnn + V[0] as a number (no wrap, no reduction modulo 4096, no check at
this instruction: decision D12, log entry 12); nothing else changes. (R109, R27, 92_eei_decisions.md D12) -/
def Obligations.IndexedJumpAddsV0 : Prop :=
  ∀ (nnn : Addr12) (s : State), ∃ t, exec (.jpV0 nnn) s = .next t ∧
    t.pc.toNat = nnn.toNat + (s.reg V0).toNat ∧ KeepsButPc s t

/-- From every state 6xkk completes with V[x] = kk, 8xy0 with V[x] = V[y], 8xy1, 8xy2, 8xy3 with the OR, AND, XOR of
V[x] and V[y] in V[x]; PC = P + 2 and nothing else changes, VF included unless x = 15. (R122, R123, R124, R125,
R126) -/
def Obligations.LoadsAndBitwiseOperations : Prop :=
  ∀ (x y : Reg) (kk : Byte) (s : State),
    WritesReg x kk s (exec (.ldImm x kk) s) ∧
    WritesReg x (s.reg y) s (exec (.ldReg x y) s) ∧
    WritesReg x (s.reg x ||| s.reg y) s (exec (.orReg x y) s) ∧
    WritesReg x (s.reg x &&& s.reg y) s (exec (.andReg x y) s) ∧
    WritesReg x (s.reg x ^^^ s.reg y) s (exec (.xorReg x y) s)

/-- From every state 7xkk completes with V[x] = (V[x] + kk) mod 256 and PC = P + 2; nothing else changes, VF included
unless x = 15 (that there is no flag is the spec's inference). (R120, R132, 41_register_arithmetic.md section 7xkk) -/
def Obligations.AddImmediateWraps : Prop :=
  ∀ (x : Reg) (kk : Byte) (s : State),
    WritesReg x (BitVec.ofNat 8 (((s.reg x).toNat + kk.toNat) % 256)) s (exec (.addImm x kk) s)

/-- For x other than 15 (x = 15 is stated in FlagWinsWhenTheDestinationIsVF): from every state 8xy4 completes with V[x]
= (V[x] + V[y]) mod 256, VF = 1 if V[x] + V[y] > 255 and else 0, both from the old values, y = 15 and x = y
included; PC = P + 2 and nothing else changes. (R127) -/
def Obligations.AddRegistersWithCarry : Prop :=
  ∀ (x y : Reg) (s : State), x ≠ VF →
    WritesRegFlag x (((s.reg x).toNat + (s.reg y).toNat) % 256) ((s.reg x).toNat + (s.reg y).toNat > 255) s
      (exec (.addReg x y) s)

/-- From every state 8xy5 completes with V[x] - V[y] modulo 256 in V[x] and VF = 1 if V[x] > V[y], else 0; 8xy7 the same
with the operands swapped and V[x] the destination. Equal operands give 0 (decision D3, log entry 3); when x = 15 VF
ends as the flag (decision D4, log entry 4). PC = P + 2 and nothing else changes. (R128, R129, R121,
92_eei_decisions.md D3, 92_eei_decisions.md D4) -/
def Obligations.SubtractBothWays : Prop :=
  ∀ (x y : Reg) (s : State),
    WritesRegFlag x (((s.reg x).toNat + 256 - (s.reg y).toNat) % 256) ((s.reg x).toNat > (s.reg y).toNat) s
      (exec (.subReg x y) s) ∧
    WritesRegFlag x (((s.reg y).toNat + 256 - (s.reg x).toNat) % 256) ((s.reg y).toNat > (s.reg x).toNat) s
      (exec (.subnReg x y) s)

/-- From every state 8xy6 completes with V[x] div 2 and VF = old bit 0, 8xyE with (V[x] * 2) mod 256 and VF = old bit 7,
for every y, which is neither read nor written unless it is x or 15; PC = P + 2 and nothing else changes (register
shifted: decision D5, log entry 5; x = 15: D4, log entry 4). (R82, R121, R130, R131, 92_eei_decisions.md D4,
92_eei_decisions.md D5) -/
def Obligations.ShiftsByOne : Prop :=
  ∀ (x y : Reg) (s : State),
    WritesRegFlag x ((s.reg x).toNat / 2) ((s.reg x).toNat % 2 = 1) s (exec (.shr x y) s) ∧
    WritesRegFlag x ((s.reg x).toNat * 2 % 256) ((s.reg x).toNat / 128 = 1) s (exec (.shl x y) s) ∧
    ∀ z : Reg, exec (.shr x z) s = exec (.shr x y) s ∧ exec (.shl x z) s = exec (.shl x y) s

/-- From every state each of the five operations with x = 15 completes with VF equal to its flag, computed from the old
VF and V[y], every other register as before, PC = P + 2 and nothing else changed (decision D4, the model's parameter
vfOrder, log entry 4; equal operands D3). (R121, 92_eei_decisions.md D3, 92_eei_decisions.md D4, 92_eei_decisions.md
D5) -/
def Obligations.FlagWinsWhenTheDestinationIsVF : Prop :=
  ∀ (y : Reg) (s : State),
    WritesReg VF (if (s.reg VF).toNat + (s.reg y).toNat > 255 then 1 else 0) s (exec (.addReg VF y) s) ∧
    WritesReg VF (if (s.reg VF).toNat > (s.reg y).toNat then 1 else 0) s (exec (.subReg VF y) s) ∧
    WritesReg VF (if (s.reg y).toNat > (s.reg VF).toNat then 1 else 0) s (exec (.subnReg VF y) s) ∧
    WritesReg VF (BitVec.ofNat 8 ((s.reg VF).toNat % 2)) s (exec (.shr VF y) s) ∧
    WritesReg VF (BitVec.ofNat 8 ((s.reg VF).toNat / 128)) s (exec (.shl VF y) s)

/-- For every value of the parameter: 8xy5 and 8xy7 with unequal operands are what the model executes under any
SUB_EQ_FLAG; the five flag operations with x other than 15 are what it executes under any VF_ORDER; the shifts with
x = y are what it executes under any SHIFT_SOURCE. (R7, R121, R128, R129, 92_eei_decisions.md D3,
92_eei_decisions.md D4, 92_eei_decisions.md D5) -/
def Obligations.OpenParametersMatterOnlyInTheirCorner : Prop :=
  ∀ (x y : Reg) (s : State),
    (s.reg x ≠ s.reg y → ∀ q : Bool,
      subtract { params with subEqFlag := q } x y s = exec (.subReg x y) s ∧
      subtractReverse { params with subEqFlag := q } x y s = exec (.subnReg x y) s) ∧
    (x ≠ VF → ∀ o : Config.VfOrder,
      addRegisters { params with vfOrder := o } x y s = exec (.addReg x y) s ∧
      subtract { params with vfOrder := o } x y s = exec (.subReg x y) s ∧
      subtractReverse { params with vfOrder := o } x y s = exec (.subnReg x y) s ∧
      shiftRight { params with vfOrder := o } x y s = exec (.shr x y) s ∧
      shiftLeft { params with vfOrder := o } x y s = exec (.shl x y) s) ∧
    (∀ w : Config.ShiftSource,
      shiftRight { params with shiftSource := w } x x s = exec (.shr x x) s ∧
      shiftLeft { params with shiftSource := w } x x s = exec (.shl x x) s)

/-- From every state Cxkk completes with V[x] = the drawn byte AND kk, PC = P + 2 and nothing else changed but the count
of draws, the model's own, which goes up by one; the drawn byte is a free value, so this holds for every draw (log
entry 16). (R133, R134, R222, 92_eei_decisions.md D16) -/
def Obligations.RandomByteUnderTheMask : Prop :=
  ∀ (x : Reg) (kk : Byte) (s : State), ∃ t, exec (.rnd x kk) s = .next t ∧
    t.reg x = Config.randByte s.draws &&& kk ∧ t.draws = s.draws + 1 ∧ t.pc = s.pc + 2 ∧
    KeepsRegs (· = x) s t ∧ KeepsButRegsDraws s t

/-- From every state Annn completes with I = nnn and PC = P + 2; nothing else changes. (R140) -/
def Obligations.SetIndexLoadsTheAddress : Prop :=
  ∀ (nnn : Addr12) (s : State), ∃ t, exec (.ldI nnn) s = .next t ∧ t.i.toNat = nnn.toNat ∧ t.pc = s.pc + 2 ∧
    KeepsButI s t

/-- When I + V[x] is at most 0xFFF, Fx1E completes with I = I + V[x] and PC = P + 2, nothing else changed and VF not
written; above 0xFFF it raises AddressOutOfRange carrying the sum (in 16 bits) and PC (check at the add: decision
D11, log entry 11; payload D14). (R141, R146, 92_eei_decisions.md D11, 92_eei_decisions.md D14, 92_eei_decisions.md
D20) -/
def Obligations.AddToIndexChecksTheSum : Prop :=
  ∀ (x : Reg) (s : State),
    (s.i.toNat + (s.reg x).toNat ≤ 0xFFF → ∃ t, exec (.addI x) s = .next t ∧
      t.i.toNat = s.i.toNat + (s.reg x).toNat ∧ t.pc = s.pc + 2 ∧ KeepsButI s t) ∧
    (s.i.toNat + (s.reg x).toNat > 0xFFF →
      exec (.addI x) s = .fault (.addressOutOfRange (BitVec.ofNat 16 (s.i.toNat + (s.reg x).toNat)) s.pc))

/-- From every state Fx29 completes with I = 5 * (V[x] mod 16) and PC = P + 2; nothing else changes, for V[x] above 15
too (decision D8, log entry 8). (R142, 92_eei_decisions.md D8) -/
def Obligations.GlyphAddressFromTheLowNibble : Prop :=
  ∀ (x : Reg) (s : State), ∃ t, exec (.ldF x) s = .next t ∧ t.i.toNat = 5 * ((s.reg x).toNat % 16) ∧
    t.pc = s.pc + 2 ∧ KeepsButI s t

/-- When I + 2 is at most 0xFFF, Fx33 completes with V[x] div 100, (V[x] div 10) mod 10 and V[x] mod 10 at I, I + 1 and
I + 2, every other byte of memory as before, PC = P + 2, and nothing else changed, I included; otherwise it raises
AddressOutOfRange(0x1000, P) (no partial store D13, payload D14, I kept D20: log entries 13, 14, 20). (R143, R146,
R147, 90_conflicts.md C5, 92_eei_decisions.md D13, 92_eei_decisions.md D14, 92_eei_decisions.md D20) -/
def Obligations.DecimalDigitsAreStored : Prop :=
  ∀ (x : Reg) (s : State),
    (s.i.toNat + 2 ≤ 0xFFF → ∃ t, exec (.ldB x) s = .next t ∧
      (t.byte s.i.toNat).toNat = (s.reg x).toNat / 100 ∧
      (t.byte (s.i.toNat + 1)).toNat = (s.reg x).toNat / 10 % 10 ∧
      (t.byte (s.i.toNat + 2)).toNat = (s.reg x).toNat % 10 ∧
      KeepsMemoryBut s.i.toNat 3 s t ∧ t.pc = s.pc + 2 ∧ KeepsButMemory s t) ∧
    (s.i.toNat + 2 > 0xFFF → exec (.ldB x) s = .fault (.addressOutOfRange 0x1000 s.pc))

/-- When I + x is at most 0xFFF, Fx55 completes with V[r] at I + r for every r up to x, every other byte of memory as
before, PC = P + 2, and nothing else changed, I included; otherwise it raises AddressOutOfRange(0x1000, P) (log
entries 13, 14, 20). (R144, R146, R147, 92_eei_decisions.md D13, 92_eei_decisions.md D14, 92_eei_decisions.md D20) -/
def Obligations.BlockStoreCopiesTheRegisters : Prop :=
  ∀ (x : Reg) (s : State),
    (s.i.toNat + x.val ≤ 0xFFF → ∃ t, exec (.storeRegs x) s = .next t ∧
      (∀ r, r ≤ x → t.byte (s.i.toNat + r.val) = s.reg r) ∧
      KeepsMemoryBut s.i.toNat (x.val + 1) s t ∧ t.pc = s.pc + 2 ∧ KeepsButMemory s t) ∧
    (s.i.toNat + x.val > 0xFFF → exec (.storeRegs x) s = .fault (.addressOutOfRange 0x1000 s.pc))

/-- When I + x is at most 0xFFF, Fx65 completes with the byte at I + r in V[r] for every r up to x, the registers above
x as before, PC = P + 2, and nothing else changed, I and memory included; otherwise it raises
AddressOutOfRange(0x1000, P) (log entries 13, 14, 20). (R145, R146, R147, 92_eei_decisions.md D13,
92_eei_decisions.md D14, 92_eei_decisions.md D20) -/
def Obligations.BlockLoadFillsTheRegisters : Prop :=
  ∀ (x : Reg) (s : State),
    (s.i.toNat + x.val ≤ 0xFFF → ∃ t, exec (.loadRegs x) s = .next t ∧
      (∀ r, r ≤ x → t.reg r = s.byte (s.i.toNat + r.val)) ∧
      KeepsRegs (· ≤ x) s t ∧ t.pc = s.pc + 2 ∧ KeepsButRegs s t) ∧
    (s.i.toNat + x.val > 0xFFF → exec (.loadRegs x) s = .fault (.addressOutOfRange 0x1000 s.pc))

/-- When I + x is at most 0xFFF, after Fx55 a Fx65 with the same x in any later state with the same I and the same
memory completes and restores V[0] to V[x] as they were at the store. (R144, R145, R58, R60, 92_eei_decisions.md
D20) -/
def Obligations.BlockStoreThenLoadRestores : Prop :=
  ∀ (x : Reg) (s : State), s.i.toNat + x.val ≤ 0xFFF → ∃ t, exec (.storeRegs x) s = .next t ∧
    ∀ u : State, u.i = t.i → KeepsMemory t u →
      ∃ w, exec (.loadRegs x) u = .next w ∧ ∀ r, r ≤ x → w.reg r = s.reg r

/-- When Fx55 or Fx33 completes, the tick of its cycle leaves memory and the new PC = P + 2 alone, and in every state
with the memory it left (the one the next cycle begins in among them) whose PC + 1 is inside memory the fetch gives
an opcode whose high byte, if the cell at PC was stored, and whose low byte, if the cell at PC + 1 was stored, is
the byte stored there, each on its own, and otherwise the byte that stood there before (an odd PC fetches too:
decision D12, log entry 12; I kept and no partial store: log entries 20, 13). (R62, R60, R143, R144, R86, R252,
92_eei_decisions.md D12) -/
def Obligations.StoreIsSeenByTheNextFetch : Prop :=
  ∀ (x : Reg) (s : State),
    (s.i.toNat + x.val ≤ 0xFFF → ∃ t, exec (.storeRegs x) s = .next t ∧ t.tick.pc = s.pc + 2 ∧ KeepsMemory t t.tick ∧
      ∀ u : State, KeepsMemory t u → u.pc.toNat + 1 ≤ 0xFFF → ∃ op, u.fetch = .ok op ∧
        (∀ k, k ≤ x → u.pc.toNat = s.i.toNat + k.val → op.toNat / 256 = (s.reg k).toNat) ∧
        (∀ k, k ≤ x → u.pc.toNat + 1 = s.i.toNat + k.val → op.toNat % 256 = (s.reg k).toNat) ∧
        (u.pc.toNat < s.i.toNat ∨ s.i.toNat + x.val < u.pc.toNat →
          op.toNat / 256 = (s.byte u.pc.toNat).toNat) ∧
        (u.pc.toNat + 1 < s.i.toNat ∨ s.i.toNat + x.val < u.pc.toNat + 1 →
          op.toNat % 256 = (s.byte (u.pc.toNat + 1)).toNat)) ∧
    (s.i.toNat + 2 ≤ 0xFFF → ∃ t, exec (.ldB x) s = .next t ∧ t.tick.pc = s.pc + 2 ∧ KeepsMemory t t.tick ∧
      ∀ u : State, KeepsMemory t u → u.pc.toNat + 1 ≤ 0xFFF → ∃ op, u.fetch = .ok op ∧
        (∀ k : Fin 3, u.pc.toNat = s.i.toNat + k.val →
          op.toNat / 256 = (s.reg x).toNat / 10 ^ (2 - k.val) % 10) ∧
        (∀ k : Fin 3, u.pc.toNat + 1 = s.i.toNat + k.val →
          op.toNat % 256 = (s.reg x).toNat / 10 ^ (2 - k.val) % 10) ∧
        (u.pc.toNat < s.i.toNat ∨ s.i.toNat + 2 < u.pc.toNat →
          op.toNat / 256 = (s.byte u.pc.toNat).toNat) ∧
        (u.pc.toNat + 1 < s.i.toNat ∨ s.i.toNat + 2 < u.pc.toNat + 1 →
          op.toNat % 256 = (s.byte (u.pc.toNat + 1)).toNat))

/-- From every state Fx07 completes with V[x] = DT as it stood, DT not changed by the read; Fx15 with DT = V[x], ST as
before; Fx18 with ST = V[x], DT as before; each with PC = P + 2 and nothing else changed, before the tick of the
same cycle; with that tick DT is one less at the end of a Fx07, and the timer written is V[x] - 1 at the end of a
Fx15 or Fx18 (0 for 0). (R150, R151, R152) -/
def Obligations.TimerMoves : Prop :=
  ∀ (x : Reg) (s : State),
    WritesReg x s.dt s (exec (.ldVxDT x) s) ∧
    (∃ t, exec (.ldDTVx x) s = .next t ∧ t.dt = s.reg x ∧ t.st = s.st ∧ t.pc = s.pc + 2 ∧ KeepsButPcTimers s t) ∧
    (∃ t, exec (.ldSTVx x) s = .next t ∧ t.st = s.reg x ∧ t.dt = s.dt ∧ t.pc = s.pc + 2 ∧ KeepsButPcTimers s t) ∧
    (∃ u, tickAfter (exec (.ldVxDT x) s) = .next u ∧ u.reg x = s.dt ∧ u.dt.toNat = s.dt.toNat - 1) ∧
    (∃ u, tickAfter (exec (.ldDTVx x) s) = .next u ∧ u.dt.toNat = (s.reg x).toNat - 1) ∧
    (∃ u, tickAfter (exec (.ldSTVx x) s) = .next u ∧ u.st.toNat = (s.reg x).toNat - 1)

/-- When the fetch at a state gives Fx15 with x, and the fetch at the state after its cycle gives Fx07 with y, both
cycles complete and V[y] ends as V[x] - 1, or 0 when V[x] was 0 (natural subtraction). (R153, R250, R215) -/
def Obligations.DelayTimerReadsBackOneLess : Prop :=
  ∀ (x y : Reg) (s : State), s.fetch = .ok (encode (.ldDTVx x)) → ∃ t, step s = .next t ∧
    (t.fetch = .ok (encode (.ldVxDT y)) → ∃ u, step t = .next u ∧ (u.reg y).toNat = (s.reg x).toNat - 1)

/-- When n is 0 or I + n - 1 is at most 0xFFF, Dxyn completes; every cell is toggled if it lies under a 1 bit of the
sprite, wrapped per pixel modulo 64 and 32, and kept if not; VF is 1 if some cell under a 1 bit was 1 before the
draw, else 0, n = 0 included; PC = P + 2; no other register, I, memory, stack, timer or key changes; coordinates are
the old registers, VF among them. The two loops of R161 against their closed form (bit order: decision D6, log entry
6; n = 0: D21, log entry 21). (R160, R161, R162, 92_eei_decisions.md D6, 92_eei_decisions.md D21) -/
def Obligations.DrawIsTheXorOfTheSprite : Prop :=
  ∀ (x y : Reg) (n : Fin 16) (s : State), (n.val = 0 ∨ s.i.toNat + n.val - 1 ≤ 0xFFF) →
    ∃ t, exec (.drw x y n) s = .next t ∧
      (∀ c r, Lit s x y n.val c r → t.cell c r = !s.cell c r) ∧
      (∀ c r, ¬ Lit s x y n.val c r → t.cell c r = s.cell c r) ∧
      ((∃ c r, Lit s x y n.val c r ∧ s.cell c r = true) → t.reg VF = 1) ∧
      ((¬ ∃ c r, Lit s x y n.val c r ∧ s.cell c r = true) → t.reg VF = 0) ∧
      t.pc = s.pc + 2 ∧ KeepsRegs (· = VF) s t ∧ KeepsButRegsScreen s t

/-- For x and y other than 15 and a sprite inside memory, two draws in a row complete, the framebuffer after the second
is the one before the first, and VF after the second is 1 if the first set some cell from 0 to 1, else 0 (log entry
6). (R161, R162, 95_test_vectors.md S6, 92_eei_decisions.md D6) -/
def Obligations.DrawTwiceRestoresTheScreen : Prop :=
  ∀ (x y : Reg) (n : Fin 16) (s : State), x ≠ VF → y ≠ VF → (n.val = 0 ∨ s.i.toNat + n.val - 1 ≤ 0xFFF) →
    ∃ t u, exec (.drw x y n) s = .next t ∧ exec (.drw x y n) t = .next u ∧ KeepsScreen s u ∧
      ((∃ c r, Lit s x y n.val c r ∧ s.cell c r = false) → u.reg VF = 1) ∧
      ((¬ ∃ c r, Lit s x y n.val c r ∧ s.cell c r = false) → u.reg VF = 0)

/-- When V[x] is k, 0 to 15, Ex9E completes with PC = P + 4 if key k is pressed and P + 2 if not, ExA1 the other way
round, and nothing but PC is written; when V[x] is above 15 both raise AddressOutOfRange carrying V[x] and PC
(decision D9, log entry 9; payload D14). (R170, R171, R173, 92_eei_decisions.md D9, 92_eei_decisions.md D14) -/
def Obligations.SkipOnTheLevelOfAKey : Prop :=
  ∀ (x : Reg) (s : State),
    (∀ k : Key, (s.reg x).toNat = k.val →
      SkipsWhen (s.key k = true) s (exec (.skp x) s) ∧ SkipsWhen (s.key k = false) s (exec (.sknp x) s)) ∧
    ((s.reg x).toNat > 15 →
      exec (.skp x) s = .fault (.addressOutOfRange (BitVec.ofNat 16 (s.reg x).toNat) s.pc) ∧
      exec (.sknp x) s = .fault (.addressOutOfRange (BitVec.ofNat 16 (s.reg x).toNat) s.pc))

/-- When key k is pressed and no lower one is, Fx0A completes with V[x] = k and PC = P + 2 and nothing else changed;
when no key is pressed it completes with the state exactly as it was, PC included (lowest key: decision D10, log
entry 10). (R172, 92_eei_decisions.md D10) -/
def Obligations.KeyWaitRecordsTheLowestKey : Prop :=
  ∀ (x : Reg) (s : State),
    (∀ k : Key, s.key k = true → (∀ j, j < k → s.key j = false) →
      WritesReg x (BitVec.ofNat 8 k.val) s (exec (.ldVxK x) s)) ∧
    ((∀ k : Key, s.key k = false) → exec (.ldVxK x) s = .next s)

/-- When the fetch gives Fx0A, any number n of cycles with no key pressed all complete and leave PC, the registers, I,
the stack, memory and the framebuffer as they were, with DT and ST lower by n, stopping at zero; a next cycle with
key k pressed and no lower one completes with V[x] = k, PC = P + 2 and every other register as at the start (D10,
D24: log entries 10, 24). (R172, R174, R221, 92_eei_decisions.md D10, 92_eei_decisions.md D24) -/
def Obligations.KeyWaitHoldsAcrossCycles : Prop :=
  ∀ (x : Reg) (n : Nat) (s : State), s.fetch = .ok (encode (.ldVxK x)) →
    ∃ t, runWithKeys (List.replicate n noKeys) s = .next t ∧ t.pc = s.pc ∧ KeepsAllRegs s t ∧ KeepsI s t ∧
      KeepsStack s t ∧ KeepsMemory s t ∧ KeepsScreen s t ∧ t.dt.toNat = s.dt.toNat - n ∧ t.st.toNat = s.st.toNat - n ∧
      ∀ (ks : Keys) (k : Key), ks[k] = true → (∀ j : Key, j < k → ks[j] = false) →
        ∃ u, stepWithKeys ks t = .next u ∧ u.pc = s.pc + 2 ∧ (u.reg x).toNat = k.val ∧ KeepsRegs (· = x) s u

/-- When PC = A and the opcode at A is a jump to A, then under every sequence of key inputs all cycles complete, PC
stays at A, and nothing changes but the keys the host sets and the timers, which fall by one a cycle to 0 (the
spec's own convention for the end of a run, D25, log entry 34). (R103, R256, 92_eei_decisions.md D25) -/
def Obligations.SelfJumpHoldsForEver : Prop :=
  ∀ (s : State) (ks : List Keys), AtSelfJump s →
    ∃ t, runWithKeys ks s = .next t ∧ t.pc = s.pc ∧ AtSelfJump t ∧ KeepsAllRegs s t ∧ KeepsI s t ∧ KeepsStack s t ∧
      KeepsMemory s t ∧ KeepsScreen s t ∧ KeepsDraws s t ∧
      t.dt.toNat = s.dt.toNat - ks.length ∧ t.st.toNat = s.st.toNat - ks.length

/-- At reset every register is 0, I and PC are 0x200, every stack slot and SP are 0, both timers are 0, every byte of
memory reads 0 and every framebuffer cell is 0 (the key states, which the source gives no value, are left out: log
entry 22). (R38, R240) -/
def Obligations.ResetState : Prop :=
  (∀ r, State.reset.reg r = 0) ∧ State.reset.i = 0x200 ∧ State.reset.pc = 0x200 ∧
    (∀ j, State.reset.slot j = 0) ∧ State.reset.sp.val = 0 ∧ State.reset.dt = 0 ∧ State.reset.st = 0 ∧
    (∀ a, State.reset.byte a = 0) ∧ (∀ c r, State.reset.cell c r = false)

/-- The boot with an image of at most 3584 bytes completes with the 80 bytes of the glyph table from 0x000, the image
from 0x200, 0 at every other address, and every other piece of state as at reset (glyph bytes: decision D7, log
entry 7). (R242, R243, R244, R246, R56, 92_eei_decisions.md D7) -/
def Obligations.StateAtTheFirstCycle : Prop :=
  ∀ image : List Byte, image.length ≤ 3584 → ∃ t, boot image = .next t ∧
    params.glyphTable.length = 80 ∧
    (∀ a, a < 80 → t.byte a = params.glyphTable.getD a 0) ∧
    (∀ j, j < image.length → t.byte (0x200 + j) = image.getD j 0) ∧
    (∀ a, 80 ≤ a → (a < 0x200 ∨ 0x200 + image.length ≤ a) → t.byte a = 0) ∧
    t.pc = 0x200 ∧ KeepsButMemory State.reset t

/-- Loading an image of more than 3584 bytes raises OversizedProgram, from every state; a host that offers it in the
boot keeps the state as it was; no cycle of any state reports OversizedProgram. (R201) -/
def Obligations.OversizedProgramIsRejected : Prop :=
  (∀ (image : List Byte) (s : State), image.length > 3584 →
    (∃ n, loadProgram image s = .fault (.oversizedProgram n)) ∧
    ∀ h : Session, h.phase = .glyphsLoaded →
      (∃ n, (h.move (.loadProgram image)).2 = .error (.oversizedProgram n)) ∧
      (h.move (.loadProgram image)).1.state = h.state) ∧
  (∀ (s : State) (n : Nat), step s ≠ .fault (.oversizedProgram n))

/-- From every state, loading an image of at most 3584 bytes completes with byte j of the image at 0x200 + j, every
other byte of memory as before, and PC, registers, timers and everything else unchanged. (R243, R52, R225) -/
def Obligations.ProgramImageIsCopied : Prop :=
  ∀ (image : List Byte) (s : State), image.length ≤ 3584 → ∃ t, loadProgram image s = .next t ∧
    (∀ j, j < image.length → t.byte (0x200 + j) = image.getD j 0) ∧
    KeepsMemoryBut 0x200 image.length s t ∧ t.pc = s.pc ∧ KeepsButMemory s t

/-- A cycle requested in any phase but running is refused; a load_glyphs in any phase but right after construction, and
a load_program in any phase but right after load_glyphs, are refused; after an oversized image a cycle and both
loads are refused; a refused request leaves the session as it was; a reset from any session gives the state and the
phase right after construction, with the random input (the model's count of draws) going on and not set back (the
model's treatment of A22, A28, D23, D28: log entries 16, 23, 26). (R226, R244, R247, 93_implementation_defined.md
A22, A28, 92_eei_decisions.md D16, 92_eei_decisions.md D23, 92_eei_decisions.md D28) -/
def Obligations.HostProtocolIsEnforced : Prop :=
  ∀ h : Session,
    (h.phase ≠ .running → (h.move .cycle).2 = .refused .notBooted) ∧
    (h.phase ≠ .constructed → (h.move .loadGlyphs).2 = .refused .loadOutOfOrder) ∧
    (h.phase ≠ .glyphsLoaded → ∀ image, (h.move (.loadProgram image)).2 = .refused .loadOutOfOrder) ∧
    (∀ image : List Byte, image.length > 3584 → h.phase = .glyphsLoaded →
      ((h.move (.loadProgram image)).1.move .cycle).2 = .refused .notBooted ∧
      ((h.move (.loadProgram image)).1.move .loadGlyphs).2 = .refused .loadOutOfOrder ∧
      ∀ other, ((h.move (.loadProgram image)).1.move (.loadProgram other)).2 = .refused .loadOutOfOrder) ∧
    (∀ (m : HostMove) (r : Refusal), (h.move m).2 = .refused r → (h.move m).1 = h) ∧
    (h.move .reset).1 = ⟨{ State.reset with draws := h.state.draws }, .constructed⟩

/-- Right after construction load_glyphs is accepted and does what it does; right after that load_program with an image
of at most 3584 bytes is; while running a cycle request answers what the cycle answers and keeps the state when it
reports an error; key input is accepted in every phase and sets the keys only; and from every session, reset,
load_glyphs and load_program of such an image in this order lead to the state of the first cycle, as a first boot
does, with the random input going on (log entries 15, 16, 22, 23, 26). (R221, R224, R226, R244, R246, R247,
92_eei_decisions.md D15, 92_eei_decisions.md D16, 92_eei_decisions.md D22, 92_eei_decisions.md D23,
92_eei_decisions.md D28) -/
def Obligations.HostProtocolIsServed : Prop :=
  ∀ h : Session,
    (h.phase = .constructed → h.move .loadGlyphs = (⟨loadGlyphs h.state, .glyphsLoaded⟩, .completed)) ∧
    (h.phase = .glyphsLoaded → ∀ image : List Byte, image.length ≤ 3584 →
      ∃ t, loadProgram image h.state = .next t ∧ h.move (.loadProgram image) = (⟨t, .running⟩, .completed)) ∧
    (h.phase = .running →
      (∀ t, step h.state = .next t → h.move .cycle = (⟨t, .running⟩, .completed)) ∧
      (∀ f, step h.state = .fault f → h.move .cycle = (h, .error f))) ∧
    (∀ k : Keys, h.move (.setKeys k) = (⟨{ h.state with keys := k }, h.phase⟩, .completed)) ∧
    (∀ image : List Byte, image.length ≤ 3584 → ∃ t, boot image = .next t ∧
      ((h.move .reset).1.move .loadGlyphs).1.move (.loadProgram image)
        = (⟨{ t with draws := h.state.draws }, .running⟩, .completed))
end

