-- ==== Sys2Proof/Laws/Decode.lean ====
section
/-! SUPPORT. The fields of a packed opcode are what was packed (R72, R73), and what the row masks of R78 leave of it. -/

namespace Sys2Proof.Laws.Decode

open Sys2Proof

/-! ### Numbers -/

theorem toNat_append_add {w v : Nat} (a : BitVec w) (b : BitVec v) : (a ++ b).toNat = a.toNat * 2 ^ v + b.toNat := by
  rw [BitVec.toNat_append, ← Nat.shiftLeft_add_eq_or_of_lt b.isLt, Nat.shiftLeft_eq]

@[simp] theorem nibble_toNat (x : Fin 16) : (nibble x).toNat = x.val := rfl

theorem toNat_packXYN (f : BitVec 4) (x y : Reg) (n : Fin 16) :
    (packXYN f x y n).toNat = f.toNat * 4096 + x.val * 256 + y.val * 16 + n.val := by
  change (((f ++ nibble x) ++ nibble y) ++ nibble n).toNat = _
  simp only [toNat_append_add, nibble_toNat]
  omega

theorem toNat_packXKK (f : BitVec 4) (x : Reg) (kk : Byte) :
    (packXKK f x kk).toNat = f.toNat * 4096 + x.val * 256 + kk.toNat := by
  change ((f ++ nibble x) ++ kk).toNat = _
  simp only [toNat_append_add, nibble_toNat]
  omega

theorem toNat_packNNN (f : BitVec 4) (nnn : Addr12) : (packNNN f nnn).toNat = f.toNat * 4096 + nnn.toNat := by
  change (f ++ nnn).toNat = _
  simp only [toNat_append_add]
  omega

theorem opFamily_toNat (op : Word) : (opFamily op).toNat = op.toNat / 4096 := by
  have := op.isLt
  simp only [opFamily, BitVec.extractLsb'_toNat, Nat.shiftRight_eq_div_pow]
  omega

theorem opX_val (op : Word) : (opX op).val = op.toNat / 256 % 16 := by
  change (op.extractLsb' 8 4).toNat = _
  simp only [BitVec.extractLsb'_toNat, Nat.shiftRight_eq_div_pow]

theorem opY_val (op : Word) : (opY op).val = op.toNat / 16 % 16 := by
  change (op.extractLsb' 4 4).toNat = _
  simp only [BitVec.extractLsb'_toNat, Nat.shiftRight_eq_div_pow]

theorem opN_val (op : Word) : (opN op).val = op.toNat % 16 := by
  change (op.extractLsb' 0 4).toNat = _
  simp only [BitVec.extractLsb'_toNat, Nat.shiftRight_eq_div_pow]
  omega

theorem opKK_toNat (op : Word) : (opKK op).toNat = op.toNat % 256 := by
  simp only [opKK, BitVec.extractLsb'_toNat, Nat.shiftRight_eq_div_pow]
  omega

theorem opNNN_toNat (op : Word) : (opNNN op).toNat = op.toNat % 4096 := by
  simp only [opNNN, BitVec.extractLsb'_toNat, Nat.shiftRight_eq_div_pow]
  omega

/-! ### The fields of what was packed -/

section Fields
variable (f : BitVec 4) (x y : Reg) (n : Fin 16) (kk : Byte) (nnn : Addr12)

@[simp] theorem opFamily_packXYN : opFamily (packXYN f x y n) = f := by
  apply BitVec.eq_of_toNat_eq; rw [opFamily_toNat, toNat_packXYN]; omega

@[simp] theorem opX_packXYN : opX (packXYN f x y n) = x := by
  apply Fin.ext; rw [opX_val, toNat_packXYN]; omega

@[simp] theorem opY_packXYN : opY (packXYN f x y n) = y := by
  apply Fin.ext; rw [opY_val, toNat_packXYN]; omega

@[simp] theorem opN_packXYN : opN (packXYN f x y n) = n := by
  apply Fin.ext; rw [opN_val, toNat_packXYN]; omega

@[simp] theorem opFamily_packXKK : opFamily (packXKK f x kk) = f := by
  have := kk.isLt
  apply BitVec.eq_of_toNat_eq; rw [opFamily_toNat, toNat_packXKK]; omega

@[simp] theorem opX_packXKK : opX (packXKK f x kk) = x := by
  have := kk.isLt
  apply Fin.ext; rw [opX_val, toNat_packXKK]; omega

@[simp] theorem opKK_packXKK : opKK (packXKK f x kk) = kk := by
  have := kk.isLt
  apply BitVec.eq_of_toNat_eq; rw [opKK_toNat, toNat_packXKK]; omega

@[simp] theorem opFamily_packNNN : opFamily (packNNN f nnn) = f := by
  have := nnn.isLt
  apply BitVec.eq_of_toNat_eq; rw [opFamily_toNat, toNat_packNNN]; omega

@[simp] theorem opNNN_packNNN : opNNN (packNNN f nnn) = nnn := by
  have := nnn.isLt
  apply BitVec.eq_of_toNat_eq; rw [opNNN_toNat, toNat_packNNN]; omega

end Fields

/-! ### Bytes -/

theorem toNat_opcodeOf (hi lo : Byte) : (opcodeOf hi lo).toNat = hi.toNat * 256 + lo.toNat := by
  change (hi ++ lo).toNat = _
  simp only [toNat_append_add]
  omega

theorem opHigh_toNat (op : Word) : (opHigh op).toNat = op.toNat / 256 := by
  have := op.isLt
  simp only [opHigh, BitVec.extractLsb'_toNat, Nat.shiftRight_eq_div_pow]
  omega

theorem opLow_toNat (op : Word) : (opLow op).toNat = op.toNat % 256 := by
  simp only [opLow, BitVec.extractLsb'_toNat, Nat.shiftRight_eq_div_pow]
  omega

/-- An opcode is its two bytes, high byte first (R52). -/
@[simp] theorem opcodeOf_bytes (op : Word) : opcodeOf (opHigh op) (opLow op) = op := by
  apply BitVec.eq_of_toNat_eq
  rw [toNat_opcodeOf, opHigh_toNat, opLow_toNat]
  omega

/-! ### Row masks -/

/-- The mask of formats NNN, XKK and XYN leaves the family. -/
theorem mask_packNNN (f : BitVec 4) (nnn : Addr12) : packNNN f nnn &&& 0xF000 = packNNN f 0 := by
  change (f ++ nnn) &&& (0xF#4 ++ 0x000#12) = f ++ 0#12
  rw [BitVec.and_append]
  congr 1
  · exact BitVec.and_allOnes
  · exact BitVec.and_zero

theorem mask_packXKK (f : BitVec 4) (x : Reg) (kk : Byte) : packXKK f x kk &&& 0xF000 = packXKK f 0 0 := by
  change ((f ++ nibble x) ++ kk) &&& ((0xF#4 ++ 0x0#4) ++ 0x00#8) = (f ++ 0#4) ++ 0#8
  rw [BitVec.and_append, BitVec.and_append]
  congr 1
  · congr 1
    · exact BitVec.and_allOnes
    · exact BitVec.and_zero
  · exact BitVec.and_zero

/-- The mask of format X leaves the family and the low byte. -/
theorem lowMask_packXKK (f : BitVec 4) (x : Reg) (kk : Byte) : packXKK f x kk &&& 0xF0FF = packXKK f 0 kk := by
  change ((f ++ nibble x) ++ kk) &&& ((0xF#4 ++ 0x0#4) ++ 0xFF#8) = (f ++ 0#4) ++ kk
  rw [BitVec.and_append, BitVec.and_append]
  congr 1
  · congr 1
    · exact BitVec.and_allOnes
    · exact BitVec.and_zero
  · exact BitVec.and_allOnes

theorem mask_packXYN (f : BitVec 4) (x y : Reg) (n : Fin 16) : packXYN f x y n &&& 0xF000 = packXYN f 0 0 0 := by
  change (((f ++ nibble x) ++ nibble y) ++ nibble n) &&& (((0xF#4 ++ 0x0#4) ++ 0x0#4) ++ 0x0#4) = ((f ++ 0#4) ++ 0#4) ++ 0#4
  rw [BitVec.and_append, BitVec.and_append, BitVec.and_append]
  congr 1
  · congr 1
    · congr 1
      · exact BitVec.and_allOnes
      · exact BitVec.and_zero
    · exact BitVec.and_zero
  · exact BitVec.and_zero

/-- The mask of format XY leaves the family and the low nibble. -/
theorem lowMask_packXYN (f : BitVec 4) (x y : Reg) (n : Fin 16) :
    packXYN f x y n &&& 0xF00F = packXYN f 0 0 n := by
  change (((f ++ nibble x) ++ nibble y) ++ nibble n) &&& (((0xF#4 ++ 0x0#4) ++ 0x0#4) ++ 0xF#4)
    = ((f ++ 0#4) ++ 0#4) ++ nibble n
  rw [BitVec.and_append, BitVec.and_append, BitVec.and_append]
  congr 1
  · congr 1
    · congr 1
      · exact BitVec.and_allOnes
      · exact BitVec.and_zero
    · exact BitVec.and_zero
  · exact BitVec.and_allOnes

end Sys2Proof.Laws.Decode
end

