-- ==== Sys2Proof/Laws/State.lean ====
section
/-! SUPPORT. What each named update of the state does to each field and to each observation, so that no later proof
unfolds a record update. All true by `rfl`. -/

namespace Sys2Proof.Laws.State

open Sys2Proof Sys2Proof.Machine

variable (s : State)

/-! ### `State.setReg` -/

@[simp] theorem setReg_v (x : Reg) (b : Byte) : (s.setReg x b).v = s.v.set x b := rfl
@[simp] theorem setReg_i (x : Reg) (b : Byte) : (s.setReg x b).i = s.i := rfl
@[simp] theorem setReg_pc (x : Reg) (b : Byte) : (s.setReg x b).pc = s.pc := rfl
@[simp] theorem setReg_stack (x : Reg) (b : Byte) : (s.setReg x b).stack = s.stack := rfl
@[simp] theorem setReg_sp (x : Reg) (b : Byte) : (s.setReg x b).sp = s.sp := rfl
@[simp] theorem setReg_dt (x : Reg) (b : Byte) : (s.setReg x b).dt = s.dt := rfl
@[simp] theorem setReg_st (x : Reg) (b : Byte) : (s.setReg x b).st = s.st := rfl
@[simp] theorem setReg_mem (x : Reg) (b : Byte) : (s.setReg x b).mem = s.mem := rfl
@[simp] theorem setReg_fb (x : Reg) (b : Byte) : (s.setReg x b).fb = s.fb := rfl
@[simp] theorem setReg_keys (x : Reg) (b : Byte) : (s.setReg x b).keys = s.keys := rfl
@[simp] theorem setReg_draws (x : Reg) (b : Byte) : (s.setReg x b).draws = s.draws := rfl
@[simp] theorem setReg_byte (x : Reg) (b : Byte) (n : Nat) : (s.setReg x b).byte n = s.byte n := rfl
@[simp] theorem setReg_slot (x : Reg) (b : Byte) (j : Fin 16) : (s.setReg x b).slot j = s.slot j := rfl
@[simp] theorem setReg_cell (x : Reg) (b : Byte) (c : Col) (r : Row) : (s.setReg x b).cell c r = s.cell c r := rfl
@[simp] theorem setReg_key (x : Reg) (b : Byte) (q : Key) : (s.setReg x b).key q = s.key q := rfl
@[simp] theorem setReg_rand (x : Reg) (b : Byte) : (s.setReg x b).rand = s.rand := rfl

/-! ### `State.setPc` -/

@[simp] theorem setPc_v (a : Word) : (s.setPc a).v = s.v := rfl
@[simp] theorem setPc_i (a : Word) : (s.setPc a).i = s.i := rfl
@[simp] theorem setPc_pc (a : Word) : (s.setPc a).pc = a := rfl
@[simp] theorem setPc_stack (a : Word) : (s.setPc a).stack = s.stack := rfl
@[simp] theorem setPc_sp (a : Word) : (s.setPc a).sp = s.sp := rfl
@[simp] theorem setPc_dt (a : Word) : (s.setPc a).dt = s.dt := rfl
@[simp] theorem setPc_st (a : Word) : (s.setPc a).st = s.st := rfl
@[simp] theorem setPc_mem (a : Word) : (s.setPc a).mem = s.mem := rfl
@[simp] theorem setPc_fb (a : Word) : (s.setPc a).fb = s.fb := rfl
@[simp] theorem setPc_keys (a : Word) : (s.setPc a).keys = s.keys := rfl
@[simp] theorem setPc_draws (a : Word) : (s.setPc a).draws = s.draws := rfl
@[simp] theorem setPc_reg (a : Word) (y : Reg) : (s.setPc a).reg y = s.reg y := rfl
@[simp] theorem setPc_byte (a : Word) (n : Nat) : (s.setPc a).byte n = s.byte n := rfl
@[simp] theorem setPc_slot (a : Word) (j : Fin 16) : (s.setPc a).slot j = s.slot j := rfl
@[simp] theorem setPc_cell (a : Word) (c : Col) (r : Row) : (s.setPc a).cell c r = s.cell c r := rfl
@[simp] theorem setPc_key (a : Word) (q : Key) : (s.setPc a).key q = s.key q := rfl
@[simp] theorem setPc_rand (a : Word) : (s.setPc a).rand = s.rand := rfl

/-! ### `State.advance` -/

@[simp] theorem advance_v : (s.advance).v = s.v := rfl
@[simp] theorem advance_i : (s.advance).i = s.i := rfl
@[simp] theorem advance_pc : (s.advance).pc = s.pc + 2 := rfl
@[simp] theorem advance_stack : (s.advance).stack = s.stack := rfl
@[simp] theorem advance_sp : (s.advance).sp = s.sp := rfl
@[simp] theorem advance_dt : (s.advance).dt = s.dt := rfl
@[simp] theorem advance_st : (s.advance).st = s.st := rfl
@[simp] theorem advance_mem : (s.advance).mem = s.mem := rfl
@[simp] theorem advance_fb : (s.advance).fb = s.fb := rfl
@[simp] theorem advance_keys : (s.advance).keys = s.keys := rfl
@[simp] theorem advance_draws : (s.advance).draws = s.draws := rfl
@[simp] theorem advance_reg (y : Reg) : (s.advance).reg y = s.reg y := rfl
@[simp] theorem advance_byte (n : Nat) : (s.advance).byte n = s.byte n := rfl
@[simp] theorem advance_slot (j : Fin 16) : (s.advance).slot j = s.slot j := rfl
@[simp] theorem advance_cell (c : Col) (r : Row) : (s.advance).cell c r = s.cell c r := rfl
@[simp] theorem advance_key (q : Key) : (s.advance).key q = s.key q := rfl
@[simp] theorem advance_rand : (s.advance).rand = s.rand := rfl

/-! ### `State.skipIf` -/

@[simp] theorem skipIf_v (c : Bool) : (s.skipIf c).v = s.v := rfl
@[simp] theorem skipIf_i (c : Bool) : (s.skipIf c).i = s.i := rfl
@[simp] theorem skipIf_pc (c : Bool) : (s.skipIf c).pc = if c then s.pc + 4 else s.pc + 2 := rfl
@[simp] theorem skipIf_stack (c : Bool) : (s.skipIf c).stack = s.stack := rfl
@[simp] theorem skipIf_sp (c : Bool) : (s.skipIf c).sp = s.sp := rfl
@[simp] theorem skipIf_dt (c : Bool) : (s.skipIf c).dt = s.dt := rfl
@[simp] theorem skipIf_st (c : Bool) : (s.skipIf c).st = s.st := rfl
@[simp] theorem skipIf_mem (c : Bool) : (s.skipIf c).mem = s.mem := rfl
@[simp] theorem skipIf_fb (c : Bool) : (s.skipIf c).fb = s.fb := rfl
@[simp] theorem skipIf_keys (c : Bool) : (s.skipIf c).keys = s.keys := rfl
@[simp] theorem skipIf_draws (c : Bool) : (s.skipIf c).draws = s.draws := rfl
@[simp] theorem skipIf_reg (c : Bool) (y : Reg) : (s.skipIf c).reg y = s.reg y := rfl
@[simp] theorem skipIf_byte (c : Bool) (n : Nat) : (s.skipIf c).byte n = s.byte n := rfl
@[simp] theorem skipIf_slot (c : Bool) (j : Fin 16) : (s.skipIf c).slot j = s.slot j := rfl
@[simp] theorem skipIf_cell (b : Bool) (c : Col) (r : Row) : (s.skipIf b).cell c r = s.cell c r := rfl
@[simp] theorem skipIf_key (c : Bool) (q : Key) : (s.skipIf c).key q = s.key q := rfl
@[simp] theorem skipIf_rand (c : Bool) : (s.skipIf c).rand = s.rand := rfl

/-! ### `State.setI` -/

@[simp] theorem setI_v (a : Word) : (s.setI a).v = s.v := rfl
@[simp] theorem setI_i (a : Word) : (s.setI a).i = a := rfl
@[simp] theorem setI_pc (a : Word) : (s.setI a).pc = s.pc := rfl
@[simp] theorem setI_stack (a : Word) : (s.setI a).stack = s.stack := rfl
@[simp] theorem setI_sp (a : Word) : (s.setI a).sp = s.sp := rfl
@[simp] theorem setI_dt (a : Word) : (s.setI a).dt = s.dt := rfl
@[simp] theorem setI_st (a : Word) : (s.setI a).st = s.st := rfl
@[simp] theorem setI_mem (a : Word) : (s.setI a).mem = s.mem := rfl
@[simp] theorem setI_fb (a : Word) : (s.setI a).fb = s.fb := rfl
@[simp] theorem setI_keys (a : Word) : (s.setI a).keys = s.keys := rfl
@[simp] theorem setI_draws (a : Word) : (s.setI a).draws = s.draws := rfl
@[simp] theorem setI_reg (a : Word) (y : Reg) : (s.setI a).reg y = s.reg y := rfl
@[simp] theorem setI_byte (a : Word) (n : Nat) : (s.setI a).byte n = s.byte n := rfl
@[simp] theorem setI_slot (a : Word) (j : Fin 16) : (s.setI a).slot j = s.slot j := rfl
@[simp] theorem setI_cell (a : Word) (c : Col) (r : Row) : (s.setI a).cell c r = s.cell c r := rfl
@[simp] theorem setI_key (a : Word) (q : Key) : (s.setI a).key q = s.key q := rfl
@[simp] theorem setI_rand (a : Word) : (s.setI a).rand = s.rand := rfl

/-! ### `State.setV` -/

@[simp] theorem setV_v (v : Vector Byte 16) : (s.setV v).v = v := rfl
@[simp] theorem setV_i (v : Vector Byte 16) : (s.setV v).i = s.i := rfl
@[simp] theorem setV_pc (v : Vector Byte 16) : (s.setV v).pc = s.pc := rfl
@[simp] theorem setV_stack (v : Vector Byte 16) : (s.setV v).stack = s.stack := rfl
@[simp] theorem setV_sp (v : Vector Byte 16) : (s.setV v).sp = s.sp := rfl
@[simp] theorem setV_dt (v : Vector Byte 16) : (s.setV v).dt = s.dt := rfl
@[simp] theorem setV_st (v : Vector Byte 16) : (s.setV v).st = s.st := rfl
@[simp] theorem setV_mem (v : Vector Byte 16) : (s.setV v).mem = s.mem := rfl
@[simp] theorem setV_fb (v : Vector Byte 16) : (s.setV v).fb = s.fb := rfl
@[simp] theorem setV_keys (v : Vector Byte 16) : (s.setV v).keys = s.keys := rfl
@[simp] theorem setV_draws (v : Vector Byte 16) : (s.setV v).draws = s.draws := rfl
@[simp] theorem setV_byte (v : Vector Byte 16) (n : Nat) : (s.setV v).byte n = s.byte n := rfl
@[simp] theorem setV_slot (v : Vector Byte 16) (j : Fin 16) : (s.setV v).slot j = s.slot j := rfl
@[simp] theorem setV_cell (v : Vector Byte 16) (c : Col) (r : Row) : (s.setV v).cell c r = s.cell c r := rfl
@[simp] theorem setV_key (v : Vector Byte 16) (q : Key) : (s.setV v).key q = s.key q := rfl
@[simp] theorem setV_rand (v : Vector Byte 16) : (s.setV v).rand = s.rand := rfl

/-! ### `State.setDt` -/

@[simp] theorem setDt_v (b : Byte) : (s.setDt b).v = s.v := rfl
@[simp] theorem setDt_i (b : Byte) : (s.setDt b).i = s.i := rfl
@[simp] theorem setDt_pc (b : Byte) : (s.setDt b).pc = s.pc := rfl
@[simp] theorem setDt_stack (b : Byte) : (s.setDt b).stack = s.stack := rfl
@[simp] theorem setDt_sp (b : Byte) : (s.setDt b).sp = s.sp := rfl
@[simp] theorem setDt_dt (b : Byte) : (s.setDt b).dt = b := rfl
@[simp] theorem setDt_st (b : Byte) : (s.setDt b).st = s.st := rfl
@[simp] theorem setDt_mem (b : Byte) : (s.setDt b).mem = s.mem := rfl
@[simp] theorem setDt_fb (b : Byte) : (s.setDt b).fb = s.fb := rfl
@[simp] theorem setDt_keys (b : Byte) : (s.setDt b).keys = s.keys := rfl
@[simp] theorem setDt_draws (b : Byte) : (s.setDt b).draws = s.draws := rfl
@[simp] theorem setDt_reg (b : Byte) (y : Reg) : (s.setDt b).reg y = s.reg y := rfl
@[simp] theorem setDt_byte (b : Byte) (n : Nat) : (s.setDt b).byte n = s.byte n := rfl
@[simp] theorem setDt_slot (b : Byte) (j : Fin 16) : (s.setDt b).slot j = s.slot j := rfl
@[simp] theorem setDt_cell (b : Byte) (c : Col) (r : Row) : (s.setDt b).cell c r = s.cell c r := rfl
@[simp] theorem setDt_key (b : Byte) (q : Key) : (s.setDt b).key q = s.key q := rfl
@[simp] theorem setDt_rand (b : Byte) : (s.setDt b).rand = s.rand := rfl

/-! ### `State.setSt` -/

@[simp] theorem setSt_v (b : Byte) : (s.setSt b).v = s.v := rfl
@[simp] theorem setSt_i (b : Byte) : (s.setSt b).i = s.i := rfl
@[simp] theorem setSt_pc (b : Byte) : (s.setSt b).pc = s.pc := rfl
@[simp] theorem setSt_stack (b : Byte) : (s.setSt b).stack = s.stack := rfl
@[simp] theorem setSt_sp (b : Byte) : (s.setSt b).sp = s.sp := rfl
@[simp] theorem setSt_dt (b : Byte) : (s.setSt b).dt = s.dt := rfl
@[simp] theorem setSt_st (b : Byte) : (s.setSt b).st = b := rfl
@[simp] theorem setSt_mem (b : Byte) : (s.setSt b).mem = s.mem := rfl
@[simp] theorem setSt_fb (b : Byte) : (s.setSt b).fb = s.fb := rfl
@[simp] theorem setSt_keys (b : Byte) : (s.setSt b).keys = s.keys := rfl
@[simp] theorem setSt_draws (b : Byte) : (s.setSt b).draws = s.draws := rfl
@[simp] theorem setSt_reg (b : Byte) (y : Reg) : (s.setSt b).reg y = s.reg y := rfl
@[simp] theorem setSt_byte (b : Byte) (n : Nat) : (s.setSt b).byte n = s.byte n := rfl
@[simp] theorem setSt_slot (b : Byte) (j : Fin 16) : (s.setSt b).slot j = s.slot j := rfl
@[simp] theorem setSt_cell (b : Byte) (c : Col) (r : Row) : (s.setSt b).cell c r = s.cell c r := rfl
@[simp] theorem setSt_key (b : Byte) (q : Key) : (s.setSt b).key q = s.key q := rfl
@[simp] theorem setSt_rand (b : Byte) : (s.setSt b).rand = s.rand := rfl

/-! ### `State.setFb` -/

@[simp] theorem setFb_v (fb : FrameBuffer) : (s.setFb fb).v = s.v := rfl
@[simp] theorem setFb_i (fb : FrameBuffer) : (s.setFb fb).i = s.i := rfl
@[simp] theorem setFb_pc (fb : FrameBuffer) : (s.setFb fb).pc = s.pc := rfl
@[simp] theorem setFb_stack (fb : FrameBuffer) : (s.setFb fb).stack = s.stack := rfl
@[simp] theorem setFb_sp (fb : FrameBuffer) : (s.setFb fb).sp = s.sp := rfl
@[simp] theorem setFb_dt (fb : FrameBuffer) : (s.setFb fb).dt = s.dt := rfl
@[simp] theorem setFb_st (fb : FrameBuffer) : (s.setFb fb).st = s.st := rfl
@[simp] theorem setFb_mem (fb : FrameBuffer) : (s.setFb fb).mem = s.mem := rfl
@[simp] theorem setFb_fb (fb : FrameBuffer) : (s.setFb fb).fb = fb := rfl
@[simp] theorem setFb_keys (fb : FrameBuffer) : (s.setFb fb).keys = s.keys := rfl
@[simp] theorem setFb_draws (fb : FrameBuffer) : (s.setFb fb).draws = s.draws := rfl
@[simp] theorem setFb_reg (fb : FrameBuffer) (y : Reg) : (s.setFb fb).reg y = s.reg y := rfl
@[simp] theorem setFb_byte (fb : FrameBuffer) (n : Nat) : (s.setFb fb).byte n = s.byte n := rfl
@[simp] theorem setFb_slot (fb : FrameBuffer) (j : Fin 16) : (s.setFb fb).slot j = s.slot j := rfl
@[simp] theorem setFb_key (fb : FrameBuffer) (q : Key) : (s.setFb fb).key q = s.key q := rfl
@[simp] theorem setFb_rand (fb : FrameBuffer) : (s.setFb fb).rand = s.rand := rfl

/-! ### `State.storeBytes` -/

@[simp] theorem storeBytes_v (a : Nat) (bs : List Byte) : (s.storeBytes a bs).v = s.v := rfl
@[simp] theorem storeBytes_i (a : Nat) (bs : List Byte) : (s.storeBytes a bs).i = s.i := rfl
@[simp] theorem storeBytes_pc (a : Nat) (bs : List Byte) : (s.storeBytes a bs).pc = s.pc := rfl
@[simp] theorem storeBytes_stack (a : Nat) (bs : List Byte) : (s.storeBytes a bs).stack = s.stack := rfl
@[simp] theorem storeBytes_sp (a : Nat) (bs : List Byte) : (s.storeBytes a bs).sp = s.sp := rfl
@[simp] theorem storeBytes_dt (a : Nat) (bs : List Byte) : (s.storeBytes a bs).dt = s.dt := rfl
@[simp] theorem storeBytes_st (a : Nat) (bs : List Byte) : (s.storeBytes a bs).st = s.st := rfl
@[simp] theorem storeBytes_mem (a : Nat) (bs : List Byte) : (s.storeBytes a bs).mem = s.mem.writeBytes a bs := rfl
@[simp] theorem storeBytes_fb (a : Nat) (bs : List Byte) : (s.storeBytes a bs).fb = s.fb := rfl
@[simp] theorem storeBytes_keys (a : Nat) (bs : List Byte) : (s.storeBytes a bs).keys = s.keys := rfl
@[simp] theorem storeBytes_draws (a : Nat) (bs : List Byte) : (s.storeBytes a bs).draws = s.draws := rfl
@[simp] theorem storeBytes_reg (a : Nat) (bs : List Byte) (y : Reg) : (s.storeBytes a bs).reg y = s.reg y := rfl
@[simp] theorem storeBytes_slot (a : Nat) (bs : List Byte) (j : Fin 16) : (s.storeBytes a bs).slot j = s.slot j := rfl
@[simp] theorem storeBytes_cell (a : Nat) (bs : List Byte) (c : Col) (r : Row) : (s.storeBytes a bs).cell c r = s.cell c r := rfl
@[simp] theorem storeBytes_key (a : Nat) (bs : List Byte) (q : Key) : (s.storeBytes a bs).key q = s.key q := rfl
@[simp] theorem storeBytes_rand (a : Nat) (bs : List Byte) : (s.storeBytes a bs).rand = s.rand := rfl

/-! ### `State.tick` -/

@[simp] theorem tick_v : (s.tick).v = s.v := rfl
@[simp] theorem tick_i : (s.tick).i = s.i := rfl
@[simp] theorem tick_pc : (s.tick).pc = s.pc := rfl
@[simp] theorem tick_stack : (s.tick).stack = s.stack := rfl
@[simp] theorem tick_sp : (s.tick).sp = s.sp := rfl
@[simp] theorem tick_dt : (s.tick).dt = tickTimer s.dt := rfl
@[simp] theorem tick_st : (s.tick).st = tickTimer s.st := rfl
@[simp] theorem tick_mem : (s.tick).mem = s.mem := rfl
@[simp] theorem tick_fb : (s.tick).fb = s.fb := rfl
@[simp] theorem tick_keys : (s.tick).keys = s.keys := rfl
@[simp] theorem tick_draws : (s.tick).draws = s.draws := rfl
@[simp] theorem tick_reg (y : Reg) : (s.tick).reg y = s.reg y := rfl
@[simp] theorem tick_byte (n : Nat) : (s.tick).byte n = s.byte n := rfl
@[simp] theorem tick_slot (j : Fin 16) : (s.tick).slot j = s.slot j := rfl
@[simp] theorem tick_cell (c : Col) (r : Row) : (s.tick).cell c r = s.cell c r := rfl
@[simp] theorem tick_key (q : Key) : (s.tick).key q = s.key q := rfl
@[simp] theorem tick_rand : (s.tick).rand = s.rand := rfl

/-! ### `State.drawn` -/

@[simp] theorem drawn_v : (s.drawn).v = s.v := rfl
@[simp] theorem drawn_i : (s.drawn).i = s.i := rfl
@[simp] theorem drawn_pc : (s.drawn).pc = s.pc := rfl
@[simp] theorem drawn_stack : (s.drawn).stack = s.stack := rfl
@[simp] theorem drawn_sp : (s.drawn).sp = s.sp := rfl
@[simp] theorem drawn_dt : (s.drawn).dt = s.dt := rfl
@[simp] theorem drawn_st : (s.drawn).st = s.st := rfl
@[simp] theorem drawn_mem : (s.drawn).mem = s.mem := rfl
@[simp] theorem drawn_fb : (s.drawn).fb = s.fb := rfl
@[simp] theorem drawn_keys : (s.drawn).keys = s.keys := rfl
@[simp] theorem drawn_draws : (s.drawn).draws = s.draws + 1 := rfl
@[simp] theorem drawn_reg (y : Reg) : (s.drawn).reg y = s.reg y := rfl
@[simp] theorem drawn_byte (n : Nat) : (s.drawn).byte n = s.byte n := rfl
@[simp] theorem drawn_slot (j : Fin 16) : (s.drawn).slot j = s.slot j := rfl
@[simp] theorem drawn_cell (c : Col) (r : Row) : (s.drawn).cell c r = s.cell c r := rfl
@[simp] theorem drawn_key (q : Key) : (s.drawn).key q = s.key q := rfl

/-! ### `State.setKeys` -/

@[simp] theorem setKeys_v (k : Keys) : (s.setKeys k).v = s.v := rfl
@[simp] theorem setKeys_i (k : Keys) : (s.setKeys k).i = s.i := rfl
@[simp] theorem setKeys_pc (k : Keys) : (s.setKeys k).pc = s.pc := rfl
@[simp] theorem setKeys_stack (k : Keys) : (s.setKeys k).stack = s.stack := rfl
@[simp] theorem setKeys_sp (k : Keys) : (s.setKeys k).sp = s.sp := rfl
@[simp] theorem setKeys_dt (k : Keys) : (s.setKeys k).dt = s.dt := rfl
@[simp] theorem setKeys_st (k : Keys) : (s.setKeys k).st = s.st := rfl
@[simp] theorem setKeys_mem (k : Keys) : (s.setKeys k).mem = s.mem := rfl
@[simp] theorem setKeys_fb (k : Keys) : (s.setKeys k).fb = s.fb := rfl
@[simp] theorem setKeys_keys (k : Keys) : (s.setKeys k).keys = k := rfl
@[simp] theorem setKeys_draws (k : Keys) : (s.setKeys k).draws = s.draws := rfl
@[simp] theorem setKeys_reg (k : Keys) (y : Reg) : (s.setKeys k).reg y = s.reg y := rfl
@[simp] theorem setKeys_byte (k : Keys) (n : Nat) : (s.setKeys k).byte n = s.byte n := rfl
@[simp] theorem setKeys_slot (k : Keys) (j : Fin 16) : (s.setKeys k).slot j = s.slot j := rfl
@[simp] theorem setKeys_cell (k : Keys) (c : Col) (r : Row) : (s.setKeys k).cell c r = s.cell c r := rfl
@[simp] theorem setKeys_rand (k : Keys) : (s.setKeys k).rand = s.rand := rfl

/-! ### `State.reconstruct`: as at reset, but for the random input, which goes on -/

@[simp] theorem reconstruct_v : (s.reconstruct).v = State.reset.v := rfl
@[simp] theorem reconstruct_i : (s.reconstruct).i = State.reset.i := rfl
@[simp] theorem reconstruct_pc : (s.reconstruct).pc = State.reset.pc := rfl
@[simp] theorem reconstruct_stack : (s.reconstruct).stack = State.reset.stack := rfl
@[simp] theorem reconstruct_sp : (s.reconstruct).sp = State.reset.sp := rfl
@[simp] theorem reconstruct_dt : (s.reconstruct).dt = State.reset.dt := rfl
@[simp] theorem reconstruct_st : (s.reconstruct).st = State.reset.st := rfl
@[simp] theorem reconstruct_mem : (s.reconstruct).mem = State.reset.mem := rfl
@[simp] theorem reconstruct_fb : (s.reconstruct).fb = State.reset.fb := rfl
@[simp] theorem reconstruct_keys : (s.reconstruct).keys = State.reset.keys := rfl
@[simp] theorem reconstruct_draws : (s.reconstruct).draws = s.draws := rfl
@[simp] theorem reconstruct_reg (y : Reg) : (s.reconstruct).reg y = State.reset.reg y := rfl
@[simp] theorem reconstruct_byte (n : Nat) : (s.reconstruct).byte n = State.reset.byte n := rfl
@[simp] theorem reconstruct_slot (j : Fin 16) : (s.reconstruct).slot j = State.reset.slot j := rfl
@[simp] theorem reconstruct_cell (c : Col) (r : Row) : (s.reconstruct).cell c r = State.reset.cell c r := rfl
@[simp] theorem reconstruct_key (q : Key) : (s.reconstruct).key q = State.reset.key q := rfl
@[simp] theorem reconstruct_rand : (s.reconstruct).rand = s.rand := rfl

end Sys2Proof.Laws.State
end

