-- ==== Sys2Proof/Laws/Registers.lean ====
section
/-! SUPPORT. The laws of the registers, the framebuffer and the flag writes. -/

namespace Sys2Proof.Laws.Registers

open Sys2Proof Sys2Proof.Machine

/-- A register read after a register write (R20). -/
theorem reg_setReg (s : State) (x y : Reg) (b : Byte) : (s.setReg x b).reg y = if y = x then b else s.reg y := by
  simp only [State.reg, State.setReg, Fin.getElem_fin, Vector.getElem_set, Fin.val_inj, eq_comm]

@[simp] theorem reg_setReg_same (s : State) (x : Reg) (b : Byte) : (s.setReg x b).reg x = b := by
  simp [reg_setReg]

theorem reg_setReg_other (s : State) {x y : Reg} (b : Byte) (h : y ≠ x) : (s.setReg x b).reg y = s.reg y := by
  simp [reg_setReg, h]

/-- A cell read after a cell write (R33). -/
theorem cell_setCell (fb : FrameBuffer) (c c' : Col) (r r' : Row) (b : Bool) :
    (fb.setCell c r b).cell c' r' = if c' = c ∧ r' = r then b else fb.cell c' r' := by
  unfold FrameBuffer.cell FrameBuffer.setCell
  by_cases hr : r' = r
  · subst hr
    by_cases hc : c' = c
    · subst hc; simp
    · have : ¬ (c : Nat) = c' := fun h => hc (Fin.ext h.symm)
      simp [hc, this]
  · have : ¬ (r : Nat) = r' := fun h => hr (Fin.ext h.symm)
    simp [hr, this]

/-- The cleared framebuffer (R101). -/
@[simp] theorem cell_clear (c : Col) (r : Row) : FrameBuffer.clear.cell c r = false := by
  simp [FrameBuffer.clear, FrameBuffer.cell]

/-- The registers after the two writes of an operation with a flag, the flag last (R121, log entry 4). -/
theorem reg_setResultFlag (s : State) (x y : Reg) (r : Byte) (f : Bool) :
    (s.setResultFlag params x r f).reg y = if y = VF then flagByte f else if y = x then r else s.reg y := by
  simp [State.setResultFlag, params, reg_setReg]

/-- The two writes touch the registers only. -/
theorem setResultFlag_frame (p : Config.Params) (s : State) (x : Reg) (r : Byte) (f : Bool) :
    ∃ v, s.setResultFlag p x r f = s.setV v := by
  unfold State.setResultFlag
  split <;> exact ⟨_, rfl⟩

/-- The registers listed are loaded, the others keep their values (R145). -/
theorem getElem_loadList (m : Memory) (a : Nat) (l : List Reg) :
    ∀ (v : Vector Byte 16) (y : Reg), (loadList m a l v)[y] = if y ∈ l then m.read (a + y.val) else v[y] := by
  induction l with
  | nil => intro v y; simp [loadList]
  | cons r rs ih =>
    intro v y
    rw [loadList, ih]
    by_cases hy : y ∈ rs
    · simp [hy]
    · by_cases hr : y = r
      · subst hr; simp
      · have : ¬ (r : Nat) = y := fun h => hr (Fin.ext h.symm)
        simp [hy, hr, this]

/-- The registers of a block are those up to `V[x]` (R76). -/
@[simp] theorem mem_regsUpTo (x y : Reg) : y ∈ regsUpTo x ↔ y ≤ x := by
  simp [regsUpTo]

end Sys2Proof.Laws.Registers
end

