-- ==== Sys2Proof/Laws/Display.lean ====
section
/-! SUPPORT. The draw as a list of pixels (44_display.md R160 to R162): the two loops are one fold over the pixels, and
each pixel of a sprite lies on a cell of its own. -/

namespace Sys2Proof.Laws.Display

open Sys2Proof Sys2Proof.Machine Sys2Proof.Laws.Registers

/-- A pixel: its cell and its bit. -/
abbrev Pixel := Col × Row × Bool

/-- A draw of the pixels listed. -/
def blitAll (d : Blit) (l : List Pixel) : Blit := l.foldl (fun d q => d.pixel q.1 q.2.1 q.2.2) d

/-- No two pixels lie on one cell. -/
abbrev Apart (l : List Pixel) : Prop := l.Pairwise (fun a b => ¬ (a.1 = b.1 ∧ a.2.1 = b.2.1))

/-- The pixels of a sprite, row by row. -/
def pixels (m : Memory) (a : Nat) (vx vy : Byte) (n : Nat) : List Pixel :=
  (List.range n).flatMap fun i => (List.range 8).map fun j =>
    (Fin.ofNat 64 (vx.toNat + j), Fin.ofNat 32 (vy.toNat + i), spriteBit params (m.read (a + i)) j)

/-- One pixel toggles its cell if its bit is 1, and no other cell (R162). -/
theorem cell_pixel (d : Blit) (c c' : Col) (r r' : Row) (b : Bool) :
    (d.pixel c r b).fb.cell c' r' = if b = true ∧ c' = c ∧ r' = r then !d.fb.cell c' r' else d.fb.cell c' r' := by
  unfold Blit.pixel
  cases b
  · simp
  · simp only [if_true, cell_setCell, true_and]
    split
    · next h => rw [h.1, h.2]
    · rfl

/-- The two loops of R161 are the draw of the sprite's pixels. -/
theorem blit_eq (s : State) (x y : Reg) (n : Nat) :
    s.blit params x y n = blitAll ⟨s.fb, false⟩ (pixels s.mem s.i.toNat (s.reg x) (s.reg y) n) := by
  simp only [State.blit, Blit.rows, Blit.row, blitAll, pixels, List.foldl_flatMap, List.foldl_map]

/-- Fewer than 32 rows of 8 pixels lie on cells of their own. -/
theorem pixels_apart (m : Memory) (a : Nat) (vx vy : Byte) (n : Nat) (hn : n ≤ 32) : Apart (pixels m a vx vy n) := by
  unfold Apart pixels
  rw [List.pairwise_flatMap]
  constructor
  · intro i _
    rw [List.pairwise_map]
    refine (List.pairwise_lt_range (n := 8)).imp_of_mem ?_
    intro j k hj hk hlt h
    have := congrArg Fin.val h.1
    simp only [Fin.ofNat] at this
    have := List.mem_range.mp hk
    omega
  · refine (List.pairwise_lt_range (n := n)).imp_of_mem ?_
    intro i k hi hk hlt p hp q hq h
    simp only [List.mem_map] at hp hq
    obtain ⟨_, _, rfl⟩ := hp
    obtain ⟨_, _, rfl⟩ := hq
    have := congrArg Fin.val h.2
    simp only [Fin.ofNat] at this
    have := List.mem_range.mp hk
    omega

/-- Pixels apart toggle exactly the cells under their 1 bits. -/
theorem cell_blitAll (l : List Pixel) (c : Col) (r : Row) :
    ∀ d : Blit, Apart l →
      (blitAll d l).fb.cell c r = if (c, r, true) ∈ l then !d.fb.cell c r else d.fb.cell c r := by
  induction l with
  | nil => intro d _; rfl
  | cons q l ih =>
    intro d hp
    obtain ⟨h1, h2⟩ := List.pairwise_cons.mp hp
    obtain ⟨qc, qr, qb⟩ := q
    change (blitAll (d.pixel qc qr qb) l).fb.cell c r = _
    rw [ih _ h2, cell_pixel]
    by_cases hm : (c, r, true) ∈ l
    · have ne : ¬ (qb = true ∧ c = qc ∧ r = qr) := fun g => h1 _ hm ⟨g.2.1.symm, g.2.2.symm⟩
      simp only [hm, if_true, if_neg ne, List.mem_cons, or_true]
    · by_cases g : qb = true ∧ c = qc ∧ r = qr
      · obtain ⟨rfl, rfl, rfl⟩ := g
        simp [hm]
      · have hne : ¬ ((c, r, true) = (qc, qr, qb)) := by
          intro z; simp at z; exact g ⟨z.2.2, z.1, z.2.1⟩
        simp only [List.mem_cons, hne, hm, or_self, if_false, if_neg g]

/-- A draw of pixels apart collides exactly where some 1 bit lies on a 1 (R162). -/
theorem collision_blitAll (l : List Pixel) :
    ∀ d : Blit, Apart l →
      ((blitAll d l).collision = true ↔ d.collision = true ∨ ∃ c r, (c, r, true) ∈ l ∧ d.fb.cell c r = true) := by
  induction l with
  | nil => intro d _; simp [blitAll]
  | cons q l ih =>
    intro d hp
    obtain ⟨h1, h2⟩ := List.pairwise_cons.mp hp
    obtain ⟨qc, qr, qb⟩ := q
    change (blitAll (d.pixel qc qr qb) l).collision = true ↔ _
    rw [ih _ h2]
    have other : ∀ c r, (c, r, true) ∈ l → (d.pixel qc qr qb).fb.cell c r = d.fb.cell c r := by
      intro c r hm
      rw [cell_pixel, if_neg]
      exact fun g => h1 _ hm ⟨g.2.1.symm, g.2.2.symm⟩
    have ex : (∃ c r, (c, r, true) ∈ l ∧ (d.pixel qc qr qb).fb.cell c r = true) ↔
        ∃ c r, (c, r, true) ∈ l ∧ d.fb.cell c r = true :=
      ⟨fun ⟨c, r, hm, h⟩ => ⟨c, r, hm, other c r hm ▸ h⟩, fun ⟨c, r, hm, h⟩ => ⟨c, r, hm, (other c r hm).symm ▸ h⟩⟩
    rw [ex]
    cases qb
    · simp [Blit.pixel]
    · simp only [Blit.pixel, if_true, Bool.or_eq_true]
      constructor
      · rintro ((h | h) | ⟨c, r, hm, h⟩)
        · exact .inl h
        · exact .inr ⟨qc, qr, by simp, h⟩
        · exact .inr ⟨c, r, by simp [hm], h⟩
      · rintro (h | ⟨c, r, hm, h⟩)
        · exact .inl (.inl h)
        · rcases List.mem_cons.mp hm with z | z
          · simp at z; obtain ⟨rfl, rfl⟩ := z; exact .inl (.inr h)
          · exact .inr ⟨c, r, z, h⟩

end Sys2Proof.Laws.Display
end

