-- ==== Sys2Proof/Laws/Memory.lean ====
section
/-! SUPPORT. The laws of memory: what a read sees after a write, and that every operation keeps the canonical form. -/

namespace Sys2Proof.Laws.Memory

open Sys2Proof Sys2Proof.Machine

theorem read_erase (m : Memory) (a b : Nat) :
    (m.erase a).read b = if b = a then Memory.unlisted else m.read b := by
  induction m with
  | nil => simp [Memory.erase, Memory.read]
  | cons e m ih =>
    obtain ⟨c, w⟩ := e
    by_cases hc : c = a
    · subst hc
      by_cases hb : b = c
      · subst hb; simpa [Memory.erase] using ih
      · simp [Memory.erase, Memory.read, ih, hb, Ne.symm hb]
    · by_cases hb : c = b
      · subst hb; simp [Memory.erase, Memory.read, hc]
      · simp [Memory.erase, Memory.read, hc, hb, ih]

theorem read_insert (m : Memory) (a b : Nat) (v : Byte) (h : m.read a = Memory.unlisted ∨ b ≠ a) (hm : a ∉ m.map (·.1)) :
    (m.insert a v).read b = if b = a then v else m.read b := by
  induction m with
  | nil => simp [Memory.insert, Memory.read, eq_comm]
  | cons e m ih =>
    obtain ⟨c, w⟩ := e
    simp only [List.map_cons, List.mem_cons, not_or] at hm
    have hca : c ≠ a := fun hc => hm.1 hc.symm
    have hread : Memory.read m a = Memory.unlisted ∨ b ≠ a := by simpa [Memory.read, hca] using h
    unfold Memory.insert
    split
    · by_cases hb : b = a
      · simp [Memory.read, hb]
      · simp [Memory.read, hb, Ne.symm hb]
    · by_cases hb : c = b
      · subst hb; simp [Memory.read, hca]
      · simp [Memory.read, hb, ih hread hm.2]

theorem not_listed_erase (m : Memory) (a : Nat) : a ∉ (m.erase a).map (·.1) := by
  induction m with
  | nil => simp [Memory.erase]
  | cons e m ih =>
    obtain ⟨c, w⟩ := e
    by_cases hc : c = a
    · simpa [Memory.erase, hc] using ih
    · simp only [Memory.erase, hc, if_false, List.map_cons, List.mem_cons, not_or]
      exact ⟨Ne.symm hc, ih⟩

/-- A read after a write: the value written at that cell, every other cell as before (R58, R60). -/
theorem read_write (m : Memory) (a b : Nat) (v : Byte) (h : a < memSize) :
    (m.write a v).read b = if b = a then v else m.read b := by
  unfold Memory.write
  rw [if_pos h]
  split
  · next hv => rw [read_erase, hv]
  · rw [read_insert _ _ _ _ (Or.inl (by simp [read_erase])) (not_listed_erase m a), read_erase]
    split <;> rfl

/-- A write outside the address space writes nothing. -/
theorem write_outside (m : Memory) (a : Nat) (v : Byte) (h : ¬ a < memSize) : m.write a v = m := by
  simp [Memory.write, h]

/-- A run of bytes: inside the run the byte stored, outside it the byte before (R53). -/
theorem read_writeBytes (bs : List Byte) :
    ∀ (m : Memory) (a b : Nat), a + bs.length ≤ memSize →
      (m.writeBytes a bs).read b = if h : a ≤ b ∧ b - a < bs.length then bs[b - a]'h.2 else m.read b := by
  induction bs with
  | nil => intro m a b _; simp [Memory.writeBytes]
  | cons v vs ih =>
    intro m a b h
    simp only [List.length_cons] at h
    rw [Memory.writeBytes, ih _ _ _ (by omega), read_write _ _ _ _ (by omega)]
    by_cases hb : b = a
    · subst hb
      rw [dif_neg (by omega), if_pos rfl, dif_pos (by simp)]
      simp
    · rw [if_neg hb]
      by_cases hin : a ≤ b ∧ b - a < (v :: vs).length
      · rw [dif_pos hin, dif_pos (by simp at hin; omega)]
        have hba : b - a = (b - (a + 1)) + 1 := by omega
        simp [hba]
      · rw [dif_neg hin, dif_neg (by simp at hin ⊢; omega)]

/-- Outside a run nothing changes, wherever the run lies. -/
theorem read_writeBytes_outside (bs : List Byte) :
    ∀ (m : Memory) (a b : Nat), (b < a ∨ a + bs.length ≤ b) → (m.writeBytes a bs).read b = m.read b := by
  induction bs with
  | nil => intro m a b _; rfl
  | cons v vs ih =>
    intro m a b h
    simp only [List.length_cons] at h
    rw [Memory.writeBytes, ih _ _ _ (by omega)]
    by_cases ha : a < memSize
    · rw [read_write _ _ _ _ ha, if_neg (by omega)]
    · rw [write_outside _ _ _ ha]

/-! ### The canonical form -/

theorem wf_cons (b : Nat) (w : Byte) (m : Memory) :
    Memory.wf ((b, w) :: m) = true ↔
      b < memSize ∧ w ≠ Memory.unlisted ∧ (∀ e ∈ m, b < e.1) ∧ Memory.wf m = true := by
  simp [Memory.wf, and_assoc]

theorem mem_erase {m : Memory} {a : Nat} {e : Host.Cell} (h : e ∈ m.erase a) : e ∈ m := by
  induction m with
  | nil => simp [Memory.erase] at h
  | cons d m ih =>
    obtain ⟨c, w⟩ := d
    by_cases hc : c = a
    · exact List.mem_cons_of_mem _ (ih (by simpa [Memory.erase, hc] using h))
    · simp only [Memory.erase, hc, if_false, List.mem_cons] at h
      exact h.elim (fun h => by simp [h]) (fun h => List.mem_cons_of_mem _ (ih h))

theorem mem_insert {m : Memory} {a : Nat} {v : Byte} {e : Host.Cell} (h : e ∈ m.insert a v) : e = (a, v) ∨ e ∈ m := by
  induction m with
  | nil => exact .inl (by simpa [Memory.insert] using h)
  | cons d m ih =>
    obtain ⟨c, w⟩ := d
    unfold Memory.insert at h
    split at h
    · simpa using h
    · rcases List.mem_cons.mp h with h | h
      · exact .inr (by simp [h])
      · exact (ih h).imp_right (List.mem_cons_of_mem _)

theorem wf_erase {m : Memory} (a : Nat) (h : m.wf = true) : (m.erase a).wf = true := by
  induction m with
  | nil => rfl
  | cons e m ih =>
    obtain ⟨c, w⟩ := e
    rw [wf_cons] at h
    by_cases hc : c = a
    · simpa [Memory.erase, hc] using ih h.2.2.2
    · simp only [Memory.erase, hc, if_false, wf_cons]
      exact ⟨h.1, h.2.1, fun e he => h.2.2.1 e (mem_erase he), ih h.2.2.2⟩

theorem wf_insert {m : Memory} {a : Nat} {v : Byte} (ha : a < memSize) (hv : v ≠ Memory.unlisted)
    (hn : a ∉ m.map (·.1)) (h : m.wf = true) : (m.insert a v).wf = true := by
  induction m with
  | nil => simp [Memory.insert, Memory.wf, ha, hv]
  | cons e m ih =>
    obtain ⟨c, w⟩ := e
    have hw := (wf_cons c w m).mp h
    simp only [List.map_cons, List.mem_cons, not_or] at hn
    unfold Memory.insert
    split
    · next hac =>
      refine (wf_cons ..).mpr ⟨ha, hv, ?_, h⟩
      intro e he
      rcases List.mem_cons.mp he with he | he
      · simpa [he] using hac
      · exact Nat.lt_trans hac (hw.2.2.1 e he)
    · next hac =>
      refine (wf_cons ..).mpr ⟨hw.1, hw.2.1, ?_, ih hn.2 hw.2.2.2⟩
      intro e he
      rcases mem_insert he with he | he
      · rw [he]; exact Nat.lt_of_le_of_ne (Nat.le_of_not_lt hac) (Ne.symm hn.1)
      · exact hw.2.2.1 e he

/-- A write keeps the canonical form. -/
theorem wf_write {m : Memory} (a : Nat) (v : Byte) (h : m.wf = true) : (m.write a v).wf = true := by
  unfold Memory.write
  split
  · next ha =>
    split
    · exact wf_erase a h
    · next hv => exact wf_insert ha hv (not_listed_erase m a) (wf_erase a h)
  · exact h

/-- A run of writes keeps the canonical form. -/
theorem wf_writeBytes (bs : List Byte) : ∀ (m : Memory) (a : Nat), m.wf = true → (m.writeBytes a bs).wf = true := by
  induction bs with
  | nil => intro m a h; exact h
  | cons v vs ih => intro m a h; exact ih _ _ (wf_write a v h)

theorem reset_wf : State.reset.mem.wf = true := rfl

/-! ### The same, of a state -/

/-- Outside the bytes stored a state reads as before. -/
theorem storeBytes_byte_outside (s : State) (a b : Nat) (bs : List Byte) (h : b < a ∨ a + bs.length ≤ b) :
    (s.storeBytes a bs).byte b = s.byte b := read_writeBytes_outside bs s.mem a b h

/-- Inside the bytes stored a state reads the byte stored. -/
theorem storeBytes_byte_inside (s : State) (a k : Nat) (bs : List Byte) (hm : a + bs.length ≤ memSize)
    (hk : k < bs.length) : (s.storeBytes a bs).byte (a + k) = bs[k] := by
  have h : a ≤ a + k ∧ a + k - a < bs.length := by omega
  rw [State.byte, State.storeBytes, read_writeBytes bs _ _ _ hm, dif_pos h]
  simp

end Sys2Proof.Laws.Memory
end

