-- ==== Sys2Proof/Laws/HostPort.lean ====
section
/-! SUPPORT. What the loads, a cycle request and the host's moves can do, said once (60_exceptions.md R220 to R226). -/

namespace Sys2Proof.Laws.HostPort

open Sys2Proof Sys2Proof.Machine

/-- An image that fits is stored from 0x200 (R243). -/
theorem loadProgram_fits (image : List Byte) (s : State) (h : image.length ≤ 3584) :
    loadProgram image s = .next (s.storeBytes 0x200 image) := by
  simp [loadProgram, imageWellFormed, maxProgram, h, programBase]

/-- An image that does not fit is reported, and nothing is written (R201). -/
theorem loadProgram_oversized (image : List Byte) (s : State) (h : image.length > 3584) :
    loadProgram image s = .fault (.oversizedProgram image.length) := by
  simp [loadProgram, imageWellFormed, maxProgram, Nat.not_le.mpr h, raise]

/-- A block store does not look at the random input (R222), so the boot after a later reset is the first boot. -/
theorem storeBytes_otherDraws (s : State) (n a : Nat) (bs : List Byte) :
    ({ s with draws := n } : State).storeBytes a bs = { s.storeBytes a bs with draws := n } := rfl

/-- Where the state of a session after a move comes from: nothing changed, a fresh construction, a load, a key input, or
a completed cycle (R226). -/
theorem move_state (h : Session) (m : HostMove) :
    (h.move m).1.state = h.state ∨ (h.move m).1.state = h.state.reconstruct ∨
      (h.move m).1.state = loadGlyphs h.state ∨
      (∃ image, image.length ≤ 3584 ∧ (h.move m).1.state = h.state.storeBytes 0x200 image) ∨
      (∃ k, (h.move m).1.state = h.state.setKeys k) ∨ step h.state = .next (h.move m).1.state := by
  obtain ⟨s, p⟩ := h
  cases m with
  | reset => exact .inr (.inl rfl)
  | setKeys k => exact .inr (.inr (.inr (.inr (.inl ⟨k, rfl⟩))))
  | loadGlyphs => cases p <;> simp [Session.move]
  | loadProgram image =>
    by_cases hl : image.length ≤ 3584
    · cases p
      case glyphsLoaded =>
        refine .inr (.inr (.inr (.inl ⟨image, hl, ?_⟩)))
        simp [Session.move, loadProgram_fits image s hl]
      all_goals exact .inl rfl
    · refine .inl ?_
      cases p <;> simp [Session.move, loadProgram_oversized image s (by omega)]
  | cycle =>
    cases p
    case running => cases hs : step s <;> simp [Session.move, executeCycle, settle, hs]
    all_goals exact .inl rfl

end Sys2Proof.Laws.HostPort
end

