-- ==== Sys2Proof/Laws/Ops.lean ====
section
/-! SUPPORT. One lemma per shared operation that says all it can do: the stack, the checks, the fetch, the tick, the
operand forms, and the shared meanings. -/

namespace Sys2Proof.Laws.Ops

open Sys2Proof Sys2Proof.Machine

/-! ### The call stack (R30) -/

theorem push_eq_none (s : State) (a : Word) : s.push a = none ↔ s.sp.val = 16 := by
  have := s.sp.isLt
  unfold State.push
  split <;> simp <;> omega

/-- A push writes the next free slot and the depth, and nothing else. -/
theorem push_eq_some {s t : State} {a : Word} (h : s.push a = some t) :
    s.sp.val < 16 ∧ t.sp.val = s.sp.val + 1 ∧ (∀ j, t.slot j = if j.val = s.sp.val then a else s.slot j) ∧
      t = { s with stack := t.stack, sp := t.sp } := by
  unfold State.push at h
  split at h
  · next hsp =>
    cases h
    refine ⟨hsp, rfl, ?_, rfl⟩
    intro j
    simp only [State.slot, Fin.getElem_fin, Vector.getElem_set]
    rcases eq_or_ne s.sp.val j.val with hj | hj <;> simp [hj, Ne.symm]
  · cases h

theorem push_isSome (s : State) (a : Word) (h : s.sp.val < 16) : ∃ t, s.push a = some t := by
  simp [State.push, h]

theorem pop_eq_none (s : State) : s.pop = none ↔ s.sp.val = 0 := by
  unfold State.pop
  split <;> simp <;> omega

/-- A pop answers the most recent return address and lowers the depth; the slots keep their values. -/
theorem pop_eq_some {s t : State} {a : Word} (h : s.pop = some (a, t)) :
    0 < s.sp.val ∧ t.sp.val + 1 = s.sp.val ∧ (∀ j : Fin 16, j.val + 1 = s.sp.val → a = s.slot j) ∧
      t = { s with sp := t.sp } := by
  unfold State.pop at h
  split at h
  · next hsp =>
    cases h
    refine ⟨hsp, by simp; omega, ?_, rfl⟩
    intro j hj
    simp only [State.slot, Fin.getElem_fin]
    congr 1
    omega
  · cases h

theorem pop_isSome (s : State) (h : 0 < s.sp.val) : ∃ a t, s.pop = some (a, t) := by
  simp [State.pop, h]

/-! ### Checks and outcomes -/

theorem checkLast_next {last : Nat} {s t : State} {go : Result} (h : checkLast last s go = .next t) :
    last ≤ 0xFFF ∧ go = .next t := by
  unfold checkLast at h
  split at h
  · cases h
  · exact ⟨by omega, h⟩

theorem checkLast_inside {last : Nat} (s : State) (go : Result) (h : last ≤ 0xFFF) : checkLast last s go = go := by
  simp [checkLast, Nat.not_lt.mpr h]

theorem checkLast_outside {last : Nat} (s : State) (go : Result) (h : last > 0xFFF) :
    checkLast last s go = .fault (.addressOutOfRange 0x1000 s.pc) := by
  simp [checkLast, h, raise, firstOutside]

theorem tickAfter_next {r : Result} {u : State} (h : tickAfter r = .next u) : ∃ t, r = .next t ∧ u = t.tick := by
  cases r <;> simp [tickAfter] at h ⊢
  exact h.symm

/-! ### The fetch and the tick (R86, R215) -/

theorem fetch_ok {s : State} {op : Word} (h : s.fetch = .ok op) :
    s.pc.toNat ≤ 0xFFE ∧ op = opcodeOf (s.byte s.pc.toNat) (s.byte (s.pc.toNat + 1)) := by
  unfold State.fetch at h
  split at h
  · cases h
  · exact ⟨by omega, by cases h; rfl⟩

theorem fetch_inside (s : State) (h : s.pc.toNat ≤ 0xFFE) :
    s.fetch = .ok (opcodeOf (s.byte s.pc.toNat) (s.byte (s.pc.toNat + 1))) := by
  unfold State.fetch
  rw [if_neg (by omega)]

theorem fetch_outside (s : State) (h : s.pc.toNat ≥ 0xFFF) :
    s.fetch = .error (.addressOutOfRange (if s.pc.toNat < 0x1000 then 0x1000 else s.pc) s.pc) := by
  unfold State.fetch
  rw [if_pos (by omega)]
  rfl

/-- A timer falls by one and stays at zero (R215). -/
theorem tickTimer_toNat (t : Byte) : (tickTimer t).toNat = t.toNat - 1 := by
  have := t.isLt
  unfold tickTimer
  split
  · rw [BitVec.toNat_sub]; simp; omega
  · omega

/-! ### Operands and shared meanings -/

theorem absolute_toNat (nnn : Addr12) : (absolute nnn).toNat = nnn.toNat := by
  have := nnn.isLt
  simp [absolute, BitVec.toNat_setWidth]
  omega

theorem zextByte_toNat (b : Byte) : (zextByte b).toNat = b.toNat := by
  have := b.isLt
  simp [zextByte, BitVec.toNat_setWidth]
  omega

/-- A register write and the advance, and nothing else (R120). -/
theorem writeReg_next (x : Reg) (b : Byte) (s : State) : writeReg x b s = .next (s.setReg x b).advance := rfl

/-- The skips on a key: an error for a value that indexes no key, else the skip (R170, R171, R173; log entry 9). -/
theorem skipOnKey_cases (x : Reg) (want : Bool) (s : State) :
    (15 < (s.reg x).toNat ∧ skipOnKey params x want s = .fault (.addressOutOfRange (zextByte (s.reg x)) s.pc)) ∨
    (∃ k : Key, k.val = (s.reg x).toNat ∧ skipOnKey params x want s = .next (s.skipIf (s.key k == want))) := by
  by_cases h : 15 < (s.reg x).toNat
  · exact .inl ⟨h, by simp [skipOnKey, keyOperand, params, h, raise]⟩
  · refine .inr ⟨Fin.ofNat 16 (s.reg x).toNat, ?_, by simp [skipOnKey, keyOperand, params, h]⟩
    simp only [Fin.ofNat]; omega

/-- The key Fx0A records is pressed, and no lower one is (R172; log entry 10). -/
theorem pressedKey_some {s : State} {k : Key} (h : pressedKey params s = some k) :
    s.key k = true ∧ ∀ j : Key, j < k → s.key j = false := by
  obtain ⟨hk, as, bs, heq, has⟩ := List.find?_eq_some_iff_append.mp h
  refine ⟨hk, fun j hj => ?_⟩
  have hmem : j ∈ as := by
    have hsorted : (List.finRange 16).Pairwise (· < ·) := by decide
    have hj' : j ∈ List.finRange 16 := List.mem_finRange j
    change List.finRange 16 = as ++ k :: bs at heq
    rw [heq] at hsorted hj'
    rcases List.mem_append.mp hj' with h1 | h1
    · exact h1
    · rcases List.mem_cons.mp h1 with h2 | h2
      · exact absurd hj (h2 ▸ Nat.lt_irrefl _)
      · exact absurd hj (Nat.lt_asymm (List.rel_of_pairwise_cons (List.pairwise_append.mp hsorted).2.1 h2))
  simpa using has j hmem

/-- No key is recorded when none is pressed (R172). -/
theorem pressedKey_none {s : State} : pressedKey params s = none ↔ ∀ k : Key, s.key k = false := by
  simp [pressedKey, keyScan, params]

/-- Fx1E: the error above 0xFFF, else the sum (R141; log entry 11). -/
theorem addToIndex_inside (x : Reg) (s : State) (h : s.i.toNat + (s.reg x).toNat ≤ 0xFFF) :
    addToIndex params x s = .next (s.setI (s.i + zextByte (s.reg x))).advance := by
  simp [addToIndex, params, Nat.not_lt.mpr h]

theorem addToIndex_outside (x : Reg) (s : State) (h : s.i.toNat + (s.reg x).toNat > 0xFFF) :
    addToIndex params x s =
      .fault (.addressOutOfRange (BitVec.ofNat 16 (s.i.toNat + (s.reg x).toNat)) s.pc) := by
  simp [addToIndex, params, h, raise]

/-- Fx29 always completes (R142; log entry 8). -/
theorem pointAtGlyph_next (x : Reg) (s : State) :
    pointAtGlyph params x s = .next (s.setI (glyphAddress (s.reg x &&& 0x0F).toNat)).advance := rfl

/-- Dxyn: the range error, or the draw (R161). -/
theorem drawSprite_inside (x y : Reg) (n : Nat) (s : State) (h : n = 0 ∨ s.i.toNat + n - 1 ≤ 0xFFF) :
    drawSprite params x y n s =
      .next ((s.setFb (s.blit params x y n).fb).setReg VF (flagByte (s.blit params x y n).collision)).advance := by
  unfold drawSprite
  rw [if_neg (by omega)]

theorem drawSprite_outside (x y : Reg) (n : Nat) (s : State) (h : n ≥ 1 ∧ s.i.toNat + n - 1 > 0xFFF) :
    drawSprite params x y n s = .fault (.addressOutOfRange 0x1000 s.pc) := by
  unfold drawSprite
  rw [if_pos h]
  rfl

/-- Every digit is a whole byte, 0 to 9 (R143). -/
theorem decimalDigits_length (v : Byte) : (decimalDigits v).length = 3 := rfl

/-- A block of `x + 1` bytes (R144). -/
theorem regsUpTo_length (x : Reg) : (regsUpTo x).length = x.val + 1 := by
  revert x; decide

/-- The `k`-th register of a block is `V[k]` (R144). -/
theorem regsUpTo_getElem (x k : Reg) (h : k ≤ x) : (regsUpTo x)[k.val]? = some k := by
  revert x k; decide

/-! ### Flags and block stores -/

/-- The no-borrow indicator is 1 exactly when the first operand is greater (R128, R129; log entry 3). -/
theorem noBorrowFlag_iff (a b : Byte) : noBorrowFlag params a b = true ↔ a.toNat > b.toNat := by
  unfold noBorrowFlag
  split
  · simp; omega
  · split <;> simp [params] <;> omega

/-- The carry of 8xy4 (R127). -/
theorem carryFlag_iff (a b : Byte) : carryFlag a b = true ↔ a.toNat + b.toNat > 255 := by
  simp [carryFlag]

/-- The bits the shifts put out (R130, R131). -/
theorem shiftedOutRight_iff (a : Byte) : shiftedOutRight a = true ↔ a.toNat % 2 = 1 := by
  revert a; decide

theorem shiftedOutLeft_iff (a : Byte) : shiftedOutLeft a = true ↔ a.toNat / 128 = 1 := by
  revert a; decide

/-- A block store: the byte stored at each address of the block (R53). -/
theorem byte_storeBytes (s : State) (a : Nat) (bs : List Byte) (h : a + bs.length ≤ memSize) (k : Nat)
    (hk : k < bs.length) : (s.storeBytes a bs).byte (a + k) = bs[k] := by
  simp only [State.byte, State.storeBytes]
  rw [Memory.read_writeBytes _ _ _ _ h, dif_pos (by omega)]
  simp

/-- A block store: every byte outside the block as before (R58). -/
theorem byte_storeBytes_outside (s : State) (a : Nat) (bs : List Byte) (b : Nat) (h : b < a ∨ a + bs.length ≤ b) :
    (s.storeBytes a bs).byte b = s.byte b :=
  Memory.read_writeBytes_outside bs _ _ _ h

/-- Fx0A: no key, nothing written; else the key recorded (R172). -/
theorem waitKey_cases (x : Reg) (s : State) :
    ((∀ k : Key, s.key k = false) ∧ waitKey params x s = .next s) ∨
    (∃ k : Key, s.key k = true ∧ (∀ j : Key, j < k → s.key j = false) ∧
      waitKey params x s = .next (s.setReg x (BitVec.ofNat 8 k.val)).advance) := by
  cases hp : pressedKey params s with
  | none => exact .inl ⟨pressedKey_none.mp hp, by simp [waitKey, hp]⟩
  | some k => exact .inr ⟨k, (pressedKey_some hp).1, (pressedKey_some hp).2, by simp [waitKey, hp]⟩

end Sys2Proof.Laws.Ops
end

