-- ==== Sys2Proof/Laws/PerInstr.lean ====
section
/-! SUPPORT. What holds of every instruction as text, one lemma per constructor: its opcode is selected by its own row
of the opcode map, and that row is one of the 34 (30_encoding.md R78). -/

namespace Sys2Proof.Laws.RowMatch

open Sys2Proof Sys2Proof.Laws.Decode

/-- The opcode of `i` is selected by the row of `i`, a row of R78. -/
def Statement (i : Instr) : Prop := i.row.selects (encode i) = true ∧ i.row ∈ opcodeRows

/-- The row of an instruction is one of the 34. -/
theorem row_mem (i : Instr) : i.row ∈ opcodeRows := by
  cases i <;> simp only [Instr.row] <;> decide

variable (x y : Reg) (n : Fin 16) (kk : Byte) (nnn : Addr12)

theorem cls : Statement .cls := ⟨by decide, by decide⟩

theorem ret : Statement .ret := ⟨by decide, by decide⟩

theorem jp : Statement (.jp nnn) := by
  refine ⟨?_, row_mem _⟩
  simp only [OpcodeRow.selects, Instr.row, encode, mask_packNNN]; decide

theorem call : Statement (.call nnn) := by
  refine ⟨?_, row_mem _⟩
  simp only [OpcodeRow.selects, Instr.row, encode, mask_packNNN]; decide

theorem seImm : Statement (.seImm x kk) := by
  refine ⟨?_, row_mem _⟩
  simp only [OpcodeRow.selects, Instr.row, encode, mask_packXKK]; decide

theorem sneImm : Statement (.sneImm x kk) := by
  refine ⟨?_, row_mem _⟩
  simp only [OpcodeRow.selects, Instr.row, encode, mask_packXKK]; decide

theorem seReg : Statement (.seReg x y) := by
  refine ⟨?_, row_mem _⟩
  simp only [OpcodeRow.selects, Instr.row, encode, lowMask_packXYN]; decide

theorem ldImm : Statement (.ldImm x kk) := by
  refine ⟨?_, row_mem _⟩
  simp only [OpcodeRow.selects, Instr.row, encode, mask_packXKK]; decide

theorem addImm : Statement (.addImm x kk) := by
  refine ⟨?_, row_mem _⟩
  simp only [OpcodeRow.selects, Instr.row, encode, mask_packXKK]; decide

theorem ldReg : Statement (.ldReg x y) := by
  refine ⟨?_, row_mem _⟩
  simp only [OpcodeRow.selects, Instr.row, encode, lowMask_packXYN]; decide

theorem orReg : Statement (.orReg x y) := by
  refine ⟨?_, row_mem _⟩
  simp only [OpcodeRow.selects, Instr.row, encode, lowMask_packXYN]; decide

theorem andReg : Statement (.andReg x y) := by
  refine ⟨?_, row_mem _⟩
  simp only [OpcodeRow.selects, Instr.row, encode, lowMask_packXYN]; decide

theorem xorReg : Statement (.xorReg x y) := by
  refine ⟨?_, row_mem _⟩
  simp only [OpcodeRow.selects, Instr.row, encode, lowMask_packXYN]; decide

theorem addReg : Statement (.addReg x y) := by
  refine ⟨?_, row_mem _⟩
  simp only [OpcodeRow.selects, Instr.row, encode, lowMask_packXYN]; decide

theorem subReg : Statement (.subReg x y) := by
  refine ⟨?_, row_mem _⟩
  simp only [OpcodeRow.selects, Instr.row, encode, lowMask_packXYN]; decide

theorem shr : Statement (.shr x y) := by
  refine ⟨?_, row_mem _⟩
  simp only [OpcodeRow.selects, Instr.row, encode, lowMask_packXYN]; decide

theorem subnReg : Statement (.subnReg x y) := by
  refine ⟨?_, row_mem _⟩
  simp only [OpcodeRow.selects, Instr.row, encode, lowMask_packXYN]; decide

theorem shl : Statement (.shl x y) := by
  refine ⟨?_, row_mem _⟩
  simp only [OpcodeRow.selects, Instr.row, encode, lowMask_packXYN]; decide

theorem sneReg : Statement (.sneReg x y) := by
  refine ⟨?_, row_mem _⟩
  simp only [OpcodeRow.selects, Instr.row, encode, lowMask_packXYN]; decide

theorem ldI : Statement (.ldI nnn) := by
  refine ⟨?_, row_mem _⟩
  simp only [OpcodeRow.selects, Instr.row, encode, mask_packNNN]; decide

theorem jpV0 : Statement (.jpV0 nnn) := by
  refine ⟨?_, row_mem _⟩
  simp only [OpcodeRow.selects, Instr.row, encode, mask_packNNN]; decide

theorem rnd : Statement (.rnd x kk) := by
  refine ⟨?_, row_mem _⟩
  simp only [OpcodeRow.selects, Instr.row, encode, mask_packXKK]; decide

theorem drw : Statement (.drw x y n) := by
  refine ⟨?_, row_mem _⟩
  simp only [OpcodeRow.selects, Instr.row, encode, mask_packXYN]; decide

theorem skp : Statement (.skp x) := by
  refine ⟨?_, row_mem _⟩
  simp only [OpcodeRow.selects, Instr.row, encode, lowMask_packXKK]; decide

theorem sknp : Statement (.sknp x) := by
  refine ⟨?_, row_mem _⟩
  simp only [OpcodeRow.selects, Instr.row, encode, lowMask_packXKK]; decide

theorem ldVxDT : Statement (.ldVxDT x) := by
  refine ⟨?_, row_mem _⟩
  simp only [OpcodeRow.selects, Instr.row, encode, lowMask_packXKK]; decide

theorem ldVxK : Statement (.ldVxK x) := by
  refine ⟨?_, row_mem _⟩
  simp only [OpcodeRow.selects, Instr.row, encode, lowMask_packXKK]; decide

theorem ldDTVx : Statement (.ldDTVx x) := by
  refine ⟨?_, row_mem _⟩
  simp only [OpcodeRow.selects, Instr.row, encode, lowMask_packXKK]; decide

theorem ldSTVx : Statement (.ldSTVx x) := by
  refine ⟨?_, row_mem _⟩
  simp only [OpcodeRow.selects, Instr.row, encode, lowMask_packXKK]; decide

theorem addI : Statement (.addI x) := by
  refine ⟨?_, row_mem _⟩
  simp only [OpcodeRow.selects, Instr.row, encode, lowMask_packXKK]; decide

theorem ldF : Statement (.ldF x) := by
  refine ⟨?_, row_mem _⟩
  simp only [OpcodeRow.selects, Instr.row, encode, lowMask_packXKK]; decide

theorem ldB : Statement (.ldB x) := by
  refine ⟨?_, row_mem _⟩
  simp only [OpcodeRow.selects, Instr.row, encode, lowMask_packXKK]; decide

theorem storeRegs : Statement (.storeRegs x) := by
  refine ⟨?_, row_mem _⟩
  simp only [OpcodeRow.selects, Instr.row, encode, lowMask_packXKK]; decide

theorem loadRegs : Statement (.loadRegs x) := by
  refine ⟨?_, row_mem _⟩
  simp only [OpcodeRow.selects, Instr.row, encode, lowMask_packXKK]; decide

end Sys2Proof.Laws.RowMatch
end

