-- ==== Sys2Proof/Laws/Step.lean ====
section
/-! SUPPORT. Everything one cycle can do, said once (30_encoding.md R85). -/

namespace Sys2Proof.Laws.Step

open Sys2Proof Sys2Proof.Machine

/-- A completed cycle fetched inside memory, decoded an instruction, executed it and ticked the timers. -/
theorem step_next {s u : State} (h : step s = .next u) :
    ∃ op i t, s.fetch = .ok op ∧ decode op = some i ∧ exec i s = .next t ∧ u = t.tick := by
  unfold step at h
  split at h
  · cases h
  · next op hop =>
    split at h
    · cases h
    · next i hi =>
      obtain ⟨t, ht, hu⟩ := Laws.Ops.tickAfter_next h
      exact ⟨op, i, t, hop, hi, ht, hu⟩

/-- A cycle that decodes an instruction is that instruction and then the tick. -/
theorem step_decoded {s : State} {op : Word} {i : Instr} (hf : s.fetch = .ok op) (hd : decode op = some i) :
    step s = tickAfter (exec i s) := by
  simp [step, hf, hd]

/-- A cycle reports the fetch's error, an unknown opcode, or the instruction's own error, in that order (R209). -/
theorem step_fault {s : State} {f : Fault} (h : step s = .fault f) :
    s.fetch = .error f ∨ (∃ op, s.fetch = .ok op ∧ decode op = none ∧ f = .unknownOpcode op s.pc) ∨
      (∃ op i, s.fetch = .ok op ∧ decode op = some i ∧ exec i s = .fault f) := by
  unfold step at h
  split at h
  · next g hg => cases h; exact .inl hg
  · next op hop =>
    split at h
    · next hd => cases h; exact .inr (.inl ⟨op, hop, hd, rfl⟩)
    · next i hi =>
      refine .inr (.inr ⟨op, i, hop, hi, ?_⟩)
      cases hx : exec i s <;> simp [hx, tickAfter] at h
      rw [h]

end Sys2Proof.Laws.Step
end

