-- ==== Sys2Proof/Tests/Slice0.lean ====
section
/-! SUPPORT. The model's own tests. Expected results come from spec/95_test_vectors.md (the id of the vector stands in
each comment) or from the rule cited, never from the model. -/

namespace Sys2Proof.Tests

open Sys2Proof Sys2Proof.Machine

/-! ### Helpers -/

/-- `s` with the opcode `w` where the next fetch reads. -/
def at' (w : Nat) (s : State) : State := s.withFetchWord 16 w

/-- The cycle completes and the state after it passes `p`. -/
def ok (r : Result) (p : State → Bool) : Bool :=
  match r with
  | .next t => p t
  | .fault _ => false
  | .refused _ => false

/-- The cycle reports exactly `f`. -/
def fails (r : Result) (f : Fault) : Bool :=
  match r with
  | .next _ => false
  | .fault g => g == f
  | .refused _ => false

/-- The reset state with two registers set. -/
def two (x : Reg) (a : Byte) (y : Reg) (b : Byte) : State := (State.reset.setReg x a).setReg y b

/-! ### Well-formedness: each check refuses an ill-formed term (R78, R80, R243, R7) -/

theorem test_wf_opcode_ok : opcodeWellFormed 0x00E0 = true ∧ opcodeWellFormed 0xFF65 = true := by decide
theorem test_wf_opcode_family0 : opcodeWellFormed 0x0000 = false ∧ opcodeWellFormed 0x01E0 = false := by decide
theorem test_wf_opcode_family5_9 : opcodeWellFormed 0x5001 = false ∧ opcodeWellFormed 0x9AB5 = false := by decide
theorem test_wf_opcode_family8 : opcodeWellFormed 0x8008 = false ∧ opcodeWellFormed 0x800F = false := by decide
theorem test_wf_opcode_familyE_F : opcodeWellFormed 0xE09F = false ∧ opcodeWellFormed 0xF085 = false := by decide
theorem test_wf_image (image : List Byte) (h : image.length = 3585) : imageWellFormed image = false := by
  simp [imageWellFormed, maxProgram, h]
theorem test_wf_image_ok (image : List Byte) (h : image.length = 3584) : imageWellFormed image = true := by
  simp [imageWellFormed, maxProgram, h]
theorem test_wf_params : params.wellFormed = true := by decide
theorem test_wf_params_short : ({ params with glyphTable := glyphsLow } : Config.Params).wellFormed = false := by decide
theorem test_wf_memory_order : Memory.wf [(5, 1), (3, 1)] = false := by decide
theorem test_wf_memory_zero : Memory.wf [(5, 0)] = false := by decide
theorem test_wf_memory_outside : Memory.wf [(4096, 1)] = false := by decide

/-! ### Decoding: words written out from the encodings (95_test_vectors.md part 2) -/

theorem test_decode_cls : decode 0b0000000011100000 = some .cls := by decide
theorem test_decode_ret : decode 0b0000000011101110 = some .ret := by decide
theorem test_decode_jp : decode 0b0001001000110100 = some (.jp 0x234) := by decide
theorem test_decode_call : decode 0b0010101010111100 = some (.call 0xABC) := by decide
theorem test_decode_seImm : decode 0b0011101001111111 = some (.seImm 0xA 0x7F) := by decide
theorem test_decode_sneImm : decode 0b0100101001111111 = some (.sneImm 0xA 0x7F) := by decide
theorem test_decode_seReg : decode 0b0101101010110000 = some (.seReg 0xA 0xB) := by decide
theorem test_decode_ldImm : decode 0b0110111100010010 = some (.ldImm 0xF 0x12) := by decide
theorem test_decode_addImm : decode 0b0111000000000001 = some (.addImm 0x0 0x01) := by decide
theorem test_decode_ldReg : decode 0b1000000100100000 = some (.ldReg 1 2) := by decide
theorem test_decode_orReg : decode 0b1000000100100001 = some (.orReg 1 2) := by decide
theorem test_decode_andReg : decode 0b1000000100100010 = some (.andReg 1 2) := by decide
theorem test_decode_xorReg : decode 0b1000000100100011 = some (.xorReg 1 2) := by decide
theorem test_decode_addReg : decode 0b1000000100100100 = some (.addReg 1 2) := by decide
theorem test_decode_subReg : decode 0b1000000100100101 = some (.subReg 1 2) := by decide
theorem test_decode_shr : decode 0b1000000100100110 = some (.shr 1 2) := by decide
theorem test_decode_subnReg : decode 0b1000000100100111 = some (.subnReg 1 2) := by decide
theorem test_decode_shl : decode 0b1000000100101110 = some (.shl 1 2) := by decide
theorem test_decode_sneReg : decode 0b1001101010110000 = some (.sneReg 0xA 0xB) := by decide
theorem test_decode_ldI : decode 0b1010000100100011 = some (.ldI 0x123) := by decide
theorem test_decode_jpV0 : decode 0b1011000100100011 = some (.jpV0 0x123) := by decide
theorem test_decode_rnd : decode 0b1100111111111111 = some (.rnd 0xF 0xFF) := by decide
theorem test_decode_drw : decode 0b1101101010111100 = some (.drw 0xA 0xB 0xC) := by decide
theorem test_decode_skp : decode 0b1110000110011110 = some (.skp 1) := by decide
theorem test_decode_sknp : decode 0b1110000110100001 = some (.sknp 1) := by decide
theorem test_decode_ldVxDT : decode 0b1111010000000111 = some (.ldVxDT 4) := by decide
theorem test_decode_ldVxK : decode 0b1111011100001010 = some (.ldVxK 7) := by decide
theorem test_decode_ldDTVx : decode 0b1111010100010101 = some (.ldDTVx 5) := by decide
theorem test_decode_ldSTVx : decode 0b1111011000011000 = some (.ldSTVx 6) := by decide
theorem test_decode_addI : decode 0b1111001000011110 = some (.addI 2) := by decide
theorem test_decode_ldF : decode 0b1111001100101001 = some (.ldF 3) := by decide
theorem test_decode_ldB : decode 0b1111000100110011 = some (.ldB 1) := by decide
theorem test_decode_storeRegs : decode 0b1111000101010101 = some (.storeRegs 1) := by decide
theorem test_decode_loadRegs : decode 0b1111111101100101 = some (.loadRegs 0xF) := by decide

/-- The unknown opcodes of part 2. -/
theorem test_decode_unknown :
    ([0x0000, 0x00E1, 0x01E0, 0x0123, 0x5001, 0x9AB5, 0x8008, 0x800F, 0x8129, 0xE09F, 0xE000, 0xE1A2, 0xF000, 0xF075,
      0xF085, 0xF01F] : List Word).all (fun w => (decode w).isNone) = true := by decide

/-- The loose alternative of part 2 (DECODE_STRICT off). -/
theorem test_decode_loose :
    decodeWith false 0x01E0 = some .cls ∧ decodeWith false 0x5001 = some (.seReg 0 0)
      ∧ decodeWith false 0x9AB5 = some (.sneReg 0xA 0xB) := by decide

/-- The field extraction of part 2. -/
theorem test_fields_DABC :
    opFamily 0xDABC = 0xD ∧ opX 0xDABC = 0xA ∧ opY 0xDABC = 0xB ∧ opN 0xDABC = 0xC ∧ opKK 0xDABC = 0xBC
      ∧ opNNN 0xDABC = 0xABC := by decide

/-- Bytes: high byte first, the rest handed back; one byte is no opcode (R52, R70). -/
theorem test_decodeBytes :
    (match decodeBytes [0x12, 0x34, 0x56] with | .ok (i, r) => i == .jp 0x234 && r == [0x56] | .error _ => false) = true
      ∧ (match decodeBytes [0x12] with | .ok _ => false | .error e => e == .truncated) = true := by decide

theorem test_decodeTableWord : decodeTableWord 16 0xD125 = some (.drw 1 2 5) := by decide

/-! ### Fetch and the cycle (part 3, VFE, VTM) -/

/-- VFE1. -/
theorem test_fetch_last_opcode :
    ok (step (at' 0x6A55 (State.reset.setPc 0xFFE))) (fun t => t.reg 0xA == 0x55 && t.pc == 0x1000) = true := by decide
/-- VFE3. -/
theorem test_fetch_FFF : fails (step (State.reset.setPc 0xFFF)) (.addressOutOfRange 0x1000 0xFFF) = true := by decide
/-- VFE4. -/
theorem test_fetch_10FE : fails (step (State.reset.setPc 0x10FE)) (.addressOutOfRange 0x10FE 0x10FE) = true := by decide
/-- VFE5: an odd `PC` runs. -/
theorem test_fetch_odd : ok (step (at' 0x00E0 (State.reset.setPc 0x201))) (fun t => t.pc == 0x203) = true := by decide
/-- Part 2, the unknown opcode in full: the error, and no tick. -/
theorem test_unknown_reported :
    executeCycle (at' 0x8008 (State.reset.setDt 5))
      = (at' 0x8008 (State.reset.setDt 5), .error (.unknownOpcode 0x8008 0x200)) := by decide
/-- VTM8: every instruction ticks both timers. -/
theorem test_tick : ok (step (at' 0x6000 ((State.reset.setDt 1).setSt 7))) (fun t => t.dt == 0 && t.st == 6) = true := by
  decide

/-! ### Control flow (part 3, VCF) -/

/-- VCF18. -/
theorem test_cls :
    ok (step (at' 0x00E0 ((State.reset.setFb (FrameBuffer.clear.setCell 5 5 true)).setReg 0xF 1)))
      (fun t => t.cell 5 5 == false && t.reg 0xF == 1 && t.pc == 0x202) = true := by decide
/-- VCF1. -/
theorem test_ret_empty : fails (step (at' 0x00EE State.reset)) (.stackUnderflow 0x200) = true := by decide
/-- VCF2. -/
theorem test_ret_full :
    ok (step (at' 0x00EE { State.reset with sp := 16, stack := State.reset.stack.set 15 0x0ABC }))
      (fun t => t.sp == 15 && t.pc == 0x0ABC && t.slot 15 == 0x0ABC) = true := by decide
/-- VCF6. -/
theorem test_jp : ok (step (at' 0x1FFF State.reset)) (fun t => t.pc == 0xFFF) = true := by decide
/-- VCF3. -/
theorem test_call :
    ok (step (at' 0x2300 { State.reset with sp := 15 }))
      (fun t => t.sp == 16 && t.pc == 0x300 && t.slot 15 == 0x0202) = true := by decide
/-- VCF4. -/
theorem test_call_full : fails (step (at' 0x2300 { State.reset with sp := 16 })) (.stackOverflow 0x200) = true := by decide
/-- VCF8, VCF9. -/
theorem test_seImm :
    ok (step (at' 0x3F01 (State.reset.setReg 0xF 1))) (fun t => t.pc == 0x204) = true
      ∧ ok (step (at' 0x3F01 State.reset)) (fun t => t.pc == 0x202) = true := by decide
/-- VCF10, VCF11. -/
theorem test_sneImm :
    ok (step (at' 0x4210 (State.reset.setReg 2 0x10))) (fun t => t.pc == 0x202) = true
      ∧ ok (step (at' 0x4211 (State.reset.setReg 2 0x10))) (fun t => t.pc == 0x204) = true := by decide
/-- VCF12, VCF14. -/
theorem test_seReg :
    ok (step (at' 0x5330 (State.reset.setReg 3 7))) (fun t => t.pc == 0x204) = true
      ∧ ok (step (at' 0x5340 (two 3 7 4 8))) (fun t => t.pc == 0x202) = true := by decide
/-- VCF13, VCF15. -/
theorem test_sneReg :
    ok (step (at' 0x9330 (State.reset.setReg 3 7))) (fun t => t.pc == 0x202) = true
      ∧ ok (step (at' 0x9340 (two 3 7 4 8))) (fun t => t.pc == 0x204) = true := by decide
/-- VCF16. -/
theorem test_jpV0 : ok (step (at' 0xB300 (State.reset.setReg 0 4))) (fun t => t.pc == 0x304) = true := by decide
/-- VCF17. -/
theorem test_jpV0_top : ok (step (at' 0xBFFF (State.reset.setReg 0 0xFF))) (fun t => t.pc == 0x10FE) = true := by decide

/-! ### Register arithmetic (part 3, VAR) -/

/-- VAR1. -/
theorem test_ldImm : ok (step (at' 0x6F12 State.reset)) (fun t => t.reg 0xF == 0x12 && t.pc == 0x202) = true := by decide
/-- VAR2. -/
theorem test_ldReg : ok (step (at' 0x8120 (State.reset.setReg 2 0xAB))) (fun t => t.reg 1 == 0xAB) = true := by decide
/-- VAR3: `VF` is not cleared. -/
theorem test_orReg :
    ok (step (at' 0x8121 ((two 1 0xF0 2 0x0F).setReg 0xF 1))) (fun t => t.reg 1 == 0xFF && t.reg 0xF == 1) = true := by decide
/-- VAR4. -/
theorem test_andReg : ok (step (at' 0x8122 (two 1 0xF0 2 0x3C))) (fun t => t.reg 1 == 0x30) = true := by decide
/-- VAR5. -/
theorem test_xorReg : ok (step (at' 0x8123 (two 1 0xF0 2 0x3C))) (fun t => t.reg 1 == 0xCC) = true := by decide
/-- VAR9: no carry, `VF` cleared. -/
theorem test_addReg :
    ok (step (at' 0x8014 ((two 0 0xFF 1 0).setReg 0xF 1))) (fun t => t.reg 0 == 0xFF && t.reg 0xF == 0) = true := by decide
/-- VAR11: the flag is written last. -/
theorem test_addReg_VF :
    ok (step (at' 0x8F14 (two 0xF 0xF0 1 0x20))) (fun t => t.reg 0xF == 1) = true := by decide
/-- VAR14. -/
theorem test_subReg :
    ok (step (at' 0x8015 (two 0 3 1 5))) (fun t => t.reg 0 == 0xFE && t.reg 0xF == 0) = true := by decide
/-- VAR15: equal operands. -/
theorem test_subReg_equal :
    ok (step (at' 0x8005 (two 0 7 0xF 1))) (fun t => t.reg 0 == 0 && t.reg 0xF == 0) = true := by decide
/-- VAR17. -/
theorem test_subnReg :
    ok (step (at' 0x8017 (two 0 3 1 5))) (fun t => t.reg 0 == 2 && t.reg 0xF == 1 && t.reg 1 == 5) = true := by decide
/-- VAR20: `y` is ignored. -/
theorem test_shr :
    ok (step (at' 0x8126 (two 1 5 2 0xFF))) (fun t => t.reg 1 == 2 && t.reg 0xF == 1 && t.reg 2 == 0xFF) = true := by decide
/-- VAR24. -/
theorem test_shr_VF : ok (step (at' 0x8F06 (State.reset.setReg 0xF 3))) (fun t => t.reg 0xF == 1) = true := by decide
/-- VAR25. -/
theorem test_shl :
    ok (step (at' 0x830E (State.reset.setReg 3 0x81))) (fun t => t.reg 3 == 2 && t.reg 0xF == 1) = true := by decide
/-- VAR28. -/
theorem test_shl_VF : ok (step (at' 0x8F0E (State.reset.setReg 0xF 0x80))) (fun t => t.reg 0xF == 1) = true := by decide
/-- VAR29: wraps, no carry flag. -/
theorem test_addImm :
    ok (step (at' 0x7101 (State.reset.setReg 1 0xFF))) (fun t => t.reg 1 == 0 && t.reg 0xF == 0) = true := by decide
/-- VAR33 without fixing the draw: under the mask 0 every draw gives 0 (R133). -/
theorem test_rnd_mask0 : exec (.rnd 0 0) State.reset = .next (((State.reset.setReg 0 0).drawn).advance) := by
  simp [exec, execRnd]

/-- The parameters' alternatives (part 3, the alternative results of VAR11, VAR15, VAR20). -/
theorem test_alternatives :
    ok (addRegisters { params with vfOrder := .resultLast } 0xF 1 (two 0xF 0xF0 1 0x20)) (fun t => t.reg 0xF == 0x10) = true
      ∧ ok (subtract { params with subEqFlag := true } 0 0 (two 0 7 0xF 0)) (fun t => t.reg 0xF == 1) = true
      ∧ ok (shiftRight { params with shiftSource := .vy } 1 2 (two 1 5 2 0xFF))
          (fun t => t.reg 1 == 0x7F && t.reg 0xF == 1) = true := by decide

/-! ### Memory and index (part 3, VMI) -/

/-- VMI1. -/
theorem test_ldI : ok (step (at' 0xAFFF State.reset)) (fun t => t.i == 0xFFF && t.pc == 0x202) = true := by decide
/-- VMI6. -/
theorem test_addI :
    ok (step (at' 0xF01E ((State.reset.setI 0xF00).setReg 0 0xFF))) (fun t => t.i == 0xFFF) = true := by decide
/-- VMI5. -/
theorem test_addI_outside :
    fails (step (at' 0xF01E ((State.reset.setI 0xF80).setReg 0 0xFF))) (.addressOutOfRange 0x107F 0x200) = true := by decide
/-- VMI9, and the alternative of GLYPH_INDEX. -/
theorem test_ldF :
    ok (step (at' 0xF229 (State.reset.setReg 2 0x1A))) (fun t => t.i == 0x032) = true
      ∧ fails (pointAtGlyph { params with glyphIndex := .raise } 2 (State.reset.setReg 2 0x1A))
          (.addressOutOfRange 0x1A 0x200) = true := by decide
/-- VMI12: the last three bytes of memory. -/
theorem test_ldB :
    ok (step (at' 0xF433 ((State.reset.setI 0xFFD).setReg 4 0xFF)))
      (fun t => t.byte 0xFFD == 2 && t.byte 0xFFE == 5 && t.byte 0xFFF == 5) = true := by decide
/-- VMI13. -/
theorem test_ldB_outside :
    fails (step (at' 0xF433 ((State.reset.setI 0xFFE).setReg 4 0xFF))) (.addressOutOfRange 0x1000 0x200) = true := by decide
/-- VMI14. -/
theorem test_storeRegs :
    ok (step (at' 0xF255 ((two 0 0x11 1 0x22).setReg 2 0x33 |>.setReg 3 0x44 |>.setI 0x400)))
      (fun t => t.byte 0x400 == 0x11 && t.byte 0x402 == 0x33 && t.byte 0x403 == 0 && t.i == 0x400) = true := by decide
/-- VMI16. -/
theorem test_storeRegs_outside :
    fails (step (at' 0xFF55 (State.reset.setI 0xFF1))) (.addressOutOfRange 0x1000 0x200) = true := by decide
/-- VMI18. -/
theorem test_loadRegs :
    ok (step (at' 0xF265 ((State.reset.storeBytes 0x300 [2, 3, 4]).setI 0x300 |>.setReg 3 0x99)))
      (fun t => t.reg 0 == 2 && t.reg 2 == 4 && t.reg 3 == 0x99 && t.i == 0x300) = true := by decide
/-- VMI20. -/
theorem test_loadRegs_outside :
    fails (step (at' 0xF165 (State.reset.setI 0xFFF))) (.addressOutOfRange 0x1000 0x200) = true := by decide

/-! ### Timers (part 3, VTM) -/

/-- VTM5. -/
theorem test_ldVxDT : ok (step (at' 0xF107 (State.reset.setDt 2))) (fun t => t.reg 1 == 2 && t.dt == 1) = true := by decide
/-- VTM1. -/
theorem test_ldDTVx : ok (step (at' 0xF015 (State.reset.setReg 0 3))) (fun t => t.dt == 2) = true := by decide
/-- VTM7. -/
theorem test_ldSTVx : ok (step (at' 0xF518 (State.reset.setReg 5 0x10))) (fun t => t.st == 0x0F) = true := by decide

/-! ### Display (part 3, VDR) -/

/-- VDR3: wraps around both edges. -/
theorem test_drw_wrap :
    ok (step (at' 0xD012 ((two 0 63 1 31).storeBytes 0x300 [0xFF, 0x81] |>.setI 0x300)))
      (fun t => t.cell 63 31 && t.cell 0 31 && t.cell 6 31 && !t.cell 7 31 && t.cell 63 0 && t.cell 6 0 && !t.cell 0 0
        && t.reg 0xF == 0) = true := by decide
/-- VDR6: a collision in row 0 is kept. -/
theorem test_drw_collision :
    ok (step (at' 0xD012 ((State.reset.setFb (FrameBuffer.clear.setCell 0 0 true)).storeBytes 0x300 [0x80, 0x80]
        |>.setI 0x300)))
      (fun t => !t.cell 0 0 && t.cell 0 1 && t.reg 0xF == 1) = true := by decide
/-- VDR9, VDR11. -/
theorem test_drw_range :
    ok (step (at' 0xD010 (State.reset.setI 0xFFF |>.setReg 0xF 1))) (fun t => t.reg 0xF == 0 && t.pc == 0x202) = true
      ∧ fails (step (at' 0xD012 (State.reset.setI 0xFFF))) (.addressOutOfRange 0x1000 0x200) = true := by decide
/-- VDR14: the coordinates are read before `VF` is written. -/
theorem test_drw_VF :
    ok (step (at' 0xDFF1 ((State.reset.setReg 0xF 5).storeBytes 0x300 [0x80] |>.setI 0x300)))
      (fun t => t.cell 5 5 && t.reg 0xF == 0) = true := by decide

/-! ### Input (part 3, VKY) -/

/-- VKY1, VKY2. -/
theorem test_skp :
    ok (step (at' 0xE09E ((State.reset.setReg 0 5).setKeys (Safety.noKeys.set 5 true)))) (fun t => t.pc == 0x204) = true
      ∧ ok (step (at' 0xE09E ((State.reset.setReg 0 5).setKeys (Safety.noKeys.set 4 true)))) (fun t => t.pc == 0x202) = true := by
  decide
/-- VKY5. -/
theorem test_skp_index : fails (step (at' 0xE09E (State.reset.setReg 0 0x10))) (.addressOutOfRange 0x10 0x200) = true := by
  decide
/-- VKY3, VKY4. -/
theorem test_sknp :
    ok (step (at' 0xE0A1 (State.reset.setReg 0 5))) (fun t => t.pc == 0x204) = true
      ∧ ok (step (at' 0xE0A1 ((State.reset.setReg 0 5).setKeys (Safety.noKeys.set 5 true)))) (fun t => t.pc == 0x202) = true := by
  decide
/-- VKY7: no key, the timers tick. -/
theorem test_ldVxK_none :
    ok (step (at' 0xF30A ((State.reset.setReg 3 0x42).setDt 4))) (fun t => t.pc == 0x200 && t.reg 3 == 0x42 && t.dt == 3)
      = true := by decide
/-- VKY10: the lowest pressed key. -/
theorem test_ldVxK :
    ok (step (at' 0xF30A (State.reset.setKeys ((Safety.noKeys.set 7 true).set 9 true))))
      (fun t => t.reg 3 == 7 && t.pc == 0x202) = true := by decide

/-! ### Load, reset and the host (part 3, VLD; R207, R244) -/

set_option maxRecDepth 8000 in
/-- VLD1. -/
theorem test_boot_empty :
    (match boot [] with | .next t => fails (step t) (.unknownOpcode 0 0x200) | _ => false) = true := by decide
set_option maxRecDepth 8000 in
/-- VLD4, VLD6. -/
theorem test_boot_map :
    ok (boot [0x12, 0x34, 0x56])
      (fun t => t.byte 0x200 == 0x12 && t.byte 0x202 == 0x56 && t.byte 0x203 == 0 && t.byte 0x000 == 0xF0
        && t.byte 0x005 == 0x20 && t.byte 0x04B == 0xF0 && t.byte 0x04F == 0x80 && t.byte 0x050 == 0) = true := by decide
/-- VLD3. -/
theorem test_load_oversized (image : List Byte) (h : image.length = 3585) :
    loadProgram image State.reset = .fault (.oversizedProgram 3585) := by
  simp [loadProgram, imageWellFormed, maxProgram, raise, h]
/-- The codes of R207. -/
theorem test_codes : (Fault.oversizedProgram 0).code = 1 ∧ (Fault.addressOutOfRange 0 0).code = 5 := by decide
/-- A cycle before the boot and a second load of either kind are refused (A28, D28). -/
theorem test_session_order :
    (Session.start.move .cycle).2 = .refused .notBooted
      ∧ ((Session.start.move .loadGlyphs).1.move .loadGlyphs).2 = .refused .loadOutOfOrder
      ∧ (((Session.start.move .loadGlyphs).1.move (.loadProgram [0x12, 0x00])).1.move (.loadProgram [])).2
          = .refused .loadOutOfOrder := by decide

/-- A reset clears the machine and does not set the random input back (R247, R134). -/
theorem test_session_reset :
    (((⟨State.reset.setReg 3 7, .running⟩ : Session).move .reset).1.state.reg 3 == 0) = true
      ∧ ((⟨{ State.reset with draws := 5 }, .running⟩ : Session).move .reset).1.state.rand = Config.randByte 5 :=
  ⟨by decide, rfl⟩

/-! ### Witnesses: for each obligation with hypotheses, concrete terms that meet all of them together, and for each
clause a value at the boundary of its range -/

/-- The reset state with one framebuffer cell at 1. -/
def dot : State := State.reset.setFb (FrameBuffer.clear.setCell 5 5 true)

/-- The reset state with one byte of memory. -/
def cell (a : Nat) (b : Byte) (s : State) : State := s.storeBytes a [b]

theorem witness_DecodeOfEncodeIsTheInstruction :
    decode (encode (.drw 15 15 15)) = some (.drw 15 15 15) ∧ encode (.drw 15 15 15) = 0xDFFF
      ∧ encode (.shr 1 2) = 0x8126 := by decide

theorem witness_EncodeOfDecodeIsTheOpcode :
    decode 0x812E = some (.shl 1 2) ∧ decode 0x1FFF = some (.jp 0xFFF) ∧ decode 0x00EE = some .ret := by decide

theorem witness_DecodeSelectsTheUniqueRow :
    (∃ a ∈ opcodeRows, a.selects 0xF165 = true) ∧ decode 0xF165 = some (.loadRegs 1) ∧ decode 0xF166 = none := by decide

/-- One unknown opcode of each clause. -/
theorem witness_UnknownOpcodesAreExactlyTheListed :
    decode 0x0000 = none ∧ decode 0x5001 = none ∧ decode 0x800F = none ∧ decode 0x900F = none ∧ decode 0xE09D = none
      ∧ decode 0xFFFF = none := by decide

/-- `PC` at its last value that fetches; an instruction that completes, and one that reports an error. -/
theorem witness_StepRunsTheDecodedInstruction :
    (at' 0x6A55 (State.reset.setPc 0xFFE)).pc.toNat + 1 = 0xFFF
      ∧ decode (opcodeOf ((at' 0x6A55 (State.reset.setPc 0xFFE)).byte 0xFFE)
          ((at' 0x6A55 (State.reset.setPc 0xFFE)).byte 0xFFF)) = some (.ldImm 0xA 0x55)
      ∧ ok (exec (.ldImm 0xA 0x55) (at' 0x6A55 (State.reset.setPc 0xFFE))) (fun t => t.reg 0xA == 0x55) = true
      ∧ decode (opcodeOf ((at' 0x00EE State.reset).byte 0x200) ((at' 0x00EE State.reset).byte 0x201)) = some .ret
      ∧ fails (exec .ret (at' 0x00EE State.reset)) (.stackUnderflow 0x200) = true := by decide

theorem witness_PlacedInstructionRunsNext :
    (State.reset.setPc 0xFFE).pc.toNat + 1 ≤ 0xFFF ∧ (State.reset.setPc 0x001).pc.toNat + 1 ≤ 0xFFF := by decide

/-- `PC` at both ends of memory; an image of two bytes, the shortest with an opcode, and the longest image. -/
theorem witness_FetchIsBigEndian :
    (State.reset.setPc 0x000).pc.toNat + 1 ≤ 0xFFF ∧ (State.reset.setPc 0xFFE).pc.toNat + 1 ≤ 0xFFF
      ∧ (([0x12, 0x34] : List Byte).length ≤ 3584 ∧ 0 + 1 < ([0x12, 0x34] : List Byte).length
        ∧ State.reset.pc.toNat = 0x200 + 0)
      ∧ ((List.replicate 3584 (0 : Byte)).length ≤ 3584 ∧ 3582 + 1 < (List.replicate 3584 (0 : Byte)).length
        ∧ (State.reset.setPc 0xFFE).pc.toNat = 0x200 + 3582) := by
  simp only [List.length_replicate]; decide

/-- The first two and the last `PC` outside. -/
theorem witness_FetchOutsideMemoryIsReported :
    (State.reset.setPc 0xFFF).pc.toNat + 1 > 0xFFF ∧ (State.reset.setPc 0x1000).pc.toNat + 1 > 0xFFF
      ∧ (State.reset.setPc 0xFFFF).pc.toNat + 1 > 0xFFF := by decide

/-- An opcode that does not decode, and one that does. -/
theorem witness_UnknownOpcodeIsReported :
    State.reset.fetch = .ok 0x0000 ∧ decode 0x0000 = none
      ∧ (at' 0x00E0 State.reset).fetch = .ok 0x00E0 ∧ decode 0x00E0 = some .cls := ⟨rfl, rfl, rfl, rfl⟩

/-- A completed cycle with both timers above 0 and at 0, and a cycle that reports. -/
theorem witness_CompletedCycleTicksBothTimers :
    (∃ t, exec .cls (at' 0x00E0 ((State.reset.setDt 1).setSt 255)) = .next t ∧ t.dt.toNat > 0 ∧ t.st.toNat > 0)
      ∧ (∃ t, exec .cls (at' 0x00E0 State.reset) = .next t ∧ t.dt.toNat = 0 ∧ t.st.toNat = 0)
      ∧ ok (step (at' 0x00E0 State.reset)) (fun _ => true) = true
      ∧ (executeCycle (State.reset.setDt 1)).2 = .error (.unknownOpcode 0 0x200) :=
  ⟨⟨_, rfl, by decide⟩, ⟨_, rfl, by decide⟩, by decide, rfl⟩

theorem witness_FailingCycleWritesNothingAndRepeats :
    step (at' 0x00EE State.reset) = .fault (.stackUnderflow 0x200)
      ∧ step (State.reset.setPc 0xFFF) = .fault (.addressOutOfRange 0x1000 0xFFF) := ⟨rfl, rfl⟩

/-- Each clause on the first value that raises it. -/
theorem witness_OperationErrorsExactly :
    exec (.call 0xFFF) { State.reset with sp := 16 } = .fault (.stackOverflow 0x200)
      ∧ exec .ret State.reset = .fault (.stackUnderflow 0x200)
      ∧ exec (.drw 0 0 1) (State.reset.setI 0x1000) = .fault (.addressOutOfRange 0x1000 0x200)
      ∧ exec (.drw 0 0 15) (State.reset.setI 0xFF2) = .fault (.addressOutOfRange 0x1000 0x200)
      ∧ exec (.ldB 0) (State.reset.setI 0xFFE) = .fault (.addressOutOfRange 0x1000 0x200)
      ∧ exec (.storeRegs 15) (State.reset.setI 0xFF1) = .fault (.addressOutOfRange 0x1000 0x200)
      ∧ exec (.loadRegs 0) (State.reset.setI 0x1000) = .fault (.addressOutOfRange 0x1000 0x200)
      ∧ exec (.addI 3) ((State.reset.setI 0xFFF).setReg 3 1) = .fault (.addressOutOfRange 0x1000 0x200)
      ∧ exec (.skp 3) (State.reset.setReg 3 16) = .fault (.addressOutOfRange 16 0x200)
      ∧ exec (.sknp 3) (State.reset.setReg 3 255) = .fault (.addressOutOfRange 255 0x200) :=
  ⟨rfl, rfl, rfl, rfl, rfl, rfl, rfl, rfl, rfl, rfl⟩

theorem witness_StackErrorsOnlyFromCallAndReturn :
    exec (.call 0) { State.reset with sp := 16 } = .fault (.stackOverflow 0x200)
      ∧ exec .ret State.reset = .fault (.stackUnderflow 0x200) := ⟨rfl, rfl⟩

/-- A state at the edge of the invariant (`PC` and a slot at their greatest values a cycle starts from) whose cycle
completes. -/
theorem witness_InvariantKeptByEveryCycle :
    Safety.Inv (at' 0x00E0 { State.reset with pc := 0xFFE, i := 0xFFF, stack := State.reset.stack.set 15 0x1000 })
      ∧ ok (step (at' 0x00E0 { State.reset with pc := 0xFFE, i := 0xFFF, stack := State.reset.stack.set 15 0x1000 }))
          (fun t => t.pc == 0x1000) = true := by decide

theorem witness_ResetMeetsTheInvariant :
    ([] : List Byte).length ≤ 3584 ∧ (List.replicate 3584 (0xFF : Byte)).length ≤ 3584 := by
  simp only [List.length_replicate]; decide

/-- Each clause by an instruction that makes the difference. -/
theorem witness_OnlyTheNamedInstructionsWrite :
    (∃ t, exec .cls dot = .next t ∧ ¬ Safety.KeepsScreen dot t)
      ∧ (∃ t, exec (.storeRegs 0) (State.reset.setReg 0 7) = .next t ∧ ¬ Safety.KeepsMemory (State.reset.setReg 0 7) t)
      ∧ (∃ t, exec (.ldI 0xFFF) State.reset = .next t ∧ ¬ Safety.KeepsI State.reset t)
      ∧ (∃ t, exec (.call 0) State.reset = .next t ∧ t.slot 0 ≠ State.reset.slot 0 ∧ t.sp ≠ State.reset.sp)
      ∧ (∃ t, exec (.ldDTVx 0) (State.reset.setReg 0 7) = .next t ∧ t.dt ≠ 0)
      ∧ (∃ t, exec (.ldSTVx 0) (State.reset.setReg 0 7) = .next t ∧ t.st ≠ 0)
      ∧ (∃ t, exec (.rnd 0 0) State.reset = .next t ∧ t.draws ≠ 0) :=
  ⟨⟨_, rfl, fun h => absurd (h 5 5) (by decide)⟩, ⟨_, rfl, fun h => absurd (h 0x200) (by decide)⟩,
    ⟨_, rfl, fun h => absurd (show (0xFFF : Word) = 0x200 from h) (by decide)⟩, ⟨_, rfl, by decide, by decide⟩, ⟨_, rfl, by decide⟩, ⟨_, rfl, by decide⟩,
    ⟨_, rfl, by decide⟩⟩

theorem witness_OnlyTheNamedInstructionsWriteVF :
    (∃ t, exec (.addReg 0 1) (two 0 0xFF 1 1) = .next t ∧ t.reg VF ≠ (two 0 0xFF 1 1).reg VF)
      ∧ (∃ t, exec (.drw 0 0 0) (State.reset.setReg VF 1) = .next t ∧ t.reg VF ≠ (State.reset.setReg VF 1).reg VF)
      ∧ (∃ t, exec (.loadRegs 15) (State.reset.setReg VF 1) = .next t
        ∧ t.reg VF ≠ (State.reset.setReg VF 1).reg VF) :=
  ⟨⟨_, rfl, by decide⟩, ⟨_, rfl, by decide⟩, ⟨_, rfl, by decide⟩⟩

theorem witness_KeysReachOnlyTheInputInstructions :
    ∀ x, Instr.storeRegs 3 ≠ .skp x ∧ Instr.storeRegs 3 ≠ .sknp x ∧ Instr.storeRegs 3 ≠ .ldVxK x := by decide

theorem witness_RandomInputReachesOnlyRandom : ∀ x kk, Instr.drw 0 1 5 ≠ .rnd x kk := fun _ _ h => Instr.noConfusion h

/-- The lowest and the highest free slot. -/
theorem witness_CallPushesTheReturnAddress :
    State.reset.sp.val = (0 : Fin 16).val ∧ ({ State.reset with sp := 15 } : State).sp.val = (15 : Fin 16).val := by decide

/-- The depths 1, 16 and 0. -/
theorem witness_ReturnRestoresThePoppedSlot :
    ({ State.reset with sp := 1 } : State).sp.val = (0 : Fin 16).val + 1
      ∧ ({ State.reset with sp := 16 } : State).sp.val = (15 : Fin 16).val + 1 ∧ State.reset.sp.val = 0 := by decide

/-- Depth 15, and a later state with other registers. -/
theorem witness_CallThenReturnRoundTrip :
    ({ State.reset with sp := 15 } : State).sp.val < 16
      ∧ ∃ t, exec (.call 0x300) { State.reset with sp := 15 } = .next t
        ∧ (t.setReg 0 9).sp = t.sp ∧ ∀ j, (t.setReg 0 9).slot j = t.slot j :=
  ⟨by decide, _, rfl, rfl, fun _ => rfl⟩

/-- Equal and not equal. -/
theorem witness_SkipOnImmediate :
    (State.reset.reg 15).toNat = (0x00 : Byte).toNat ∧ (State.reset.reg 15).toNat ≠ (0xFF : Byte).toNat := by decide

theorem witness_SkipOnRegisters :
    (State.reset.reg 3).toNat = (State.reset.reg 3).toNat
      ∧ ((two 3 7 4 8).reg 3).toNat ≠ ((two 3 7 4 8).reg 4).toNat := by decide

/-- `x` other than 15; a sum of 255 and of 256. -/
theorem witness_AddRegistersWithCarry :
    (14 : Reg) ≠ VF ∧ ¬ ((two 14 0xFF 15 0).reg 14).toNat + ((two 14 0xFF 15 0).reg 15).toNat > 255
      ∧ ((two 14 0xFF 15 1).reg 14).toNat + ((two 14 0xFF 15 1).reg 15).toNat > 255 := by decide

/-- `x` other than 15; greater by one, equal, less by one. -/
theorem witness_SubtractBothWays :
    (0 : Reg) ≠ VF ∧ ((two 0 8 1 7).reg 0).toNat > ((two 0 8 1 7).reg 1).toNat
      ∧ ¬ ((two 0 7 1 7).reg 0).toNat > ((two 0 7 1 7).reg 1).toNat
      ∧ ¬ ((two 0 6 1 7).reg 0).toNat > ((two 0 6 1 7).reg 1).toNat := by decide

theorem witness_ShiftsByOne :
    (0 : Reg) ≠ VF ∧ ((State.reset.setReg 0 0x81).reg 0).toNat % 2 = 1 ∧ ((State.reset.setReg 0 0x80).reg 0).toNat / 128 = 1
      ∧ ¬ ((State.reset.setReg 0 0x7E).reg 0).toNat % 2 = 1 ∧ ¬ ((State.reset.setReg 0 0x7F).reg 0).toNat / 128 = 1 := by
  decide

theorem witness_OpenParametersMatterOnlyInTheirCorner : (two 14 7 15 8).reg 14 ≠ (two 14 7 15 8).reg 15 ∧ (14 : Reg) ≠ VF := by
  decide

/-- The sums 0xFFF and 0x1000. -/
theorem witness_AddToIndexChecksTheSum :
    ((State.reset.setI 0xF00).setReg 0 0xFF).i.toNat + (((State.reset.setI 0xF00).setReg 0 0xFF).reg 0).toNat ≤ 0xFFF
      ∧ ((State.reset.setI 0xF01).setReg 0 0xFF).i.toNat + (((State.reset.setI 0xF01).setReg 0 0xFF).reg 0).toNat > 0xFFF := by
  decide

theorem witness_DecimalDigitsAreStored :
    (State.reset.setI 0xFFD).i.toNat + 2 ≤ 0xFFF ∧ (State.reset.setI 0xFFE).i.toNat + 2 > 0xFFF := by decide

theorem witness_BlockStoreCopiesTheRegisters :
    (State.reset.setI 0xFF0).i.toNat + (15 : Reg).val ≤ 0xFFF ∧ (State.reset.setI 0xFF1).i.toNat + (15 : Reg).val > 0xFFF
      ∧ (State.reset.setI 0xFFF).i.toNat + (0 : Reg).val ≤ 0xFFF := by decide

theorem witness_BlockLoadFillsTheRegisters :
    (State.reset.setI 0xFF0).i.toNat + (15 : Reg).val ≤ 0xFFF ∧ (State.reset.setI 0xFF1).i.toNat + (15 : Reg).val > 0xFFF
      ∧ (State.reset.setI 0xFFF).i.toNat + (0 : Reg).val ≤ 0xFFF := by decide

/-- The store at the top of memory, and a later state with other registers and another `PC`. -/
theorem witness_BlockStoreThenLoadRestores :
    (State.reset.setI 0xFF0).i.toNat + (15 : Reg).val ≤ 0xFFF
      ∧ ∃ t, exec (.storeRegs 15) (State.reset.setI 0xFF0) = .next t
        ∧ ((t.setReg 0 9).setPc 0x300).i = t.i ∧ Safety.KeepsMemory t ((t.setReg 0 9).setPc 0x300) :=
  ⟨by decide, _, rfl, rfl, fun _ => rfl⟩

/-- Fx55: both bytes at `PC` = `P + 2` stored, the high one only, the low one only, none; at the top of memory. Fx33:
each digit under the next fetch, and none. -/
theorem witness_StoreIsSeenByTheNextFetch :
    ((State.reset.setI 0x202).i.toNat + (1 : Reg).val ≤ 0xFFF
        ∧ (∃ t, exec (.storeRegs 1) (State.reset.setI 0x202) = .next t ∧ Safety.KeepsMemory t t.tick
          ∧ t.tick.pc.toNat + 1 ≤ 0xFFF ∧ t.tick.pc.toNat = 0x202 + (0 : Reg).val
          ∧ t.tick.pc.toNat + 1 = 0x202 + (1 : Reg).val ∧ (1 : Reg) ≤ 1)
        ∧ (∃ t, exec (.storeRegs 0) (State.reset.setI 0x202) = .next t ∧ t.tick.pc.toNat = 0x202 + (0 : Reg).val
          ∧ 0x202 + (0 : Reg).val < t.tick.pc.toNat + 1)
        ∧ (∃ t, exec (.storeRegs 0) (State.reset.setI 0x203) = .next t ∧ t.tick.pc.toNat + 1 = 0x203 + (0 : Reg).val
          ∧ t.tick.pc.toNat < 0x203)
        ∧ (State.reset.setI 0xFF0).i.toNat + (15 : Reg).val ≤ 0xFFF ∧ (0xFFE : Word).toNat + 1 = 0xFF0 + (15 : Reg).val)
      ∧ ((State.reset.setI 0xFFD).i.toNat + 2 ≤ 0xFFF
        ∧ (∃ t, exec (.ldB 3) (State.reset.setI 0x200) = .next t ∧ Safety.KeepsMemory t t.tick
          ∧ t.tick.pc.toNat + 1 ≤ 0xFFF ∧ t.tick.pc.toNat = 0x200 + (2 : Fin 3).val ∧ 0x200 + 2 < t.tick.pc.toNat + 1)
        ∧ (∃ t, exec (.ldB 3) (State.reset.setI 0x203) = .next t ∧ t.tick.pc.toNat + 1 = 0x203 + (0 : Fin 3).val
          ∧ t.tick.pc.toNat < 0x203)) :=
  ⟨⟨by decide, ⟨_, rfl, fun _ => rfl, by decide, by decide, by decide, by decide⟩, ⟨_, rfl, by decide, by decide⟩,
      ⟨_, rfl, by decide, by decide⟩, by decide, by decide⟩,
    ⟨by decide, ⟨_, rfl, fun _ => rfl, by decide, by decide, by decide⟩, ⟨_, rfl, by decide, by decide⟩⟩⟩

/-- F015 F107 in memory at 0x200. -/
theorem witness_DelayTimerReadsBackOneLess :
    (State.reset.storeBytes 0x200 [0xF0, 0x15, 0xF1, 0x07]).fetch = .ok (encode (.ldDTVx 0))
      ∧ ∃ t, step (State.reset.storeBytes 0x200 [0xF0, 0x15, 0xF1, 0x07]) = .next t
        ∧ t.fetch = .ok (encode (.ldVxDT 1)) :=
  ⟨rfl, _, rfl, rfl⟩

/-- No row at `I` past memory, fifteen rows up to the last cell; a lit cell over a 1, and an unlit one. -/
theorem witness_DrawIsTheXorOfTheSprite :
    ((0 : Fin 16).val = 0 ∨ (State.reset.setI 0xFFFF).i.toNat + (0 : Fin 16).val - 1 ≤ 0xFFF)
      ∧ ((15 : Fin 16).val = 0 ∨ (State.reset.setI 0xFF1).i.toNat + (15 : Fin 16).val - 1 ≤ 0xFFF)
      ∧ (Safety.Lit (cell 0x200 0x80 ((dot.setReg 0 5).setReg 1 5)) 0 1 1 5 5
        ∧ (cell 0x200 0x80 ((dot.setReg 0 5).setReg 1 5)).cell 5 5 = true)
      ∧ Safety.Lit (cell 0x200 0x01 (two 0 63 1 31)) 0 1 1 6 31 ∧ ¬ Safety.Lit State.reset 0 1 0 0 0 := by
  refine ⟨by decide, by decide, ⟨⟨0, 0, by decide⟩, by decide⟩, ⟨0, 7, by decide⟩, ?_⟩
  rintro ⟨i, _, h, _⟩
  exact absurd h (Nat.not_lt_zero i)

/-- `x` = 0, `y` = 14; a cell the first draw sets from 0 to 1. -/
theorem witness_DrawTwiceRestoresTheScreen :
    (0 : Reg) ≠ VF ∧ (14 : Reg) ≠ VF
      ∧ ((1 : Fin 16).val = 0 ∨ (cell 0x200 0x80 State.reset).i.toNat + (1 : Fin 16).val - 1 ≤ 0xFFF)
      ∧ Safety.Lit (cell 0x200 0x80 State.reset) 0 14 1 0 0 ∧ (cell 0x200 0x80 State.reset).cell 0 0 = false :=
  ⟨by decide, by decide, by decide, ⟨0, 0, by decide⟩, by decide⟩

/-- The keys 0 and 15, one pressed and one not, and the first value that names no key. -/
theorem witness_SkipOnTheLevelOfAKey :
    (State.reset.reg 0).toNat = (0 : Key).val ∧ State.reset.key 0 = false
      ∧ (((State.reset.setReg 0 15).setKeys (Safety.noKeys.set 15 true)).reg 0).toNat = (15 : Key).val
      ∧ ((State.reset.setReg 0 15).setKeys (Safety.noKeys.set 15 true)).key 15 = true
      ∧ ((State.reset.setReg 0 16).reg 0).toNat > 15 := by decide

/-- Key 15 alone, keys 7 and 9, and no key. -/
theorem witness_KeyWaitRecordsTheLowestKey :
    ((State.reset.setKeys (Safety.noKeys.set 15 true)).key 15 = true
        ∧ ∀ j : Key, j < 15 → (State.reset.setKeys (Safety.noKeys.set 15 true)).key j = false)
      ∧ ((State.reset.setKeys ((Safety.noKeys.set 7 true).set 9 true)).key 7 = true
        ∧ ∀ j : Key, j < 7 → (State.reset.setKeys ((Safety.noKeys.set 7 true).set 9 true)).key j = false)
      ∧ ∀ k : Key, State.reset.key k = false := by decide

theorem witness_KeyWaitHoldsAcrossCycles :
    (at' 0xF30A State.reset).fetch = .ok (encode (.ldVxK 3))
      ∧ (Safety.noKeys.set 15 true)[(15 : Key)] = true
      ∧ ∀ j : Key, j < 15 → (Safety.noKeys.set 15 true)[j] = false := ⟨rfl, by decide, by decide⟩

/-- 1200 at 0x200, and 1FFE at 0xFFE. -/
theorem witness_SelfJumpHoldsForEver :
    Safety.AtSelfJump (at' 0x1200 State.reset) ∧ Safety.AtSelfJump (at' 0x1FFE (State.reset.setPc 0xFFE)) :=
  ⟨⟨0x200, rfl, rfl⟩, ⟨0xFFE, rfl, rfl⟩⟩

/-- The empty image, and the longest with its last byte and no cell behind it. -/
theorem witness_StateAtTheFirstCycle :
    ([] : List Byte).length ≤ 3584 ∧ ¬ 0 < ([] : List Byte).length
      ∧ (List.replicate 3584 (1 : Byte)).length ≤ 3584 ∧ 3583 < (List.replicate 3584 (1 : Byte)).length
      ∧ (80 ≤ 80 ∧ 80 < 0x200) ∧ 0x200 + (List.replicate 3584 (1 : Byte)).length ≤ 0x1000 := by
  simp only [List.length_replicate]; decide

theorem witness_OversizedProgramIsRejected :
    (List.replicate 3585 (0 : Byte)).length > 3584 ∧ (Session.start.move .loadGlyphs).1.phase = .glyphsLoaded :=
  ⟨by simp only [List.length_replicate]; decide, rfl⟩

theorem witness_ProgramImageIsCopied :
    (List.replicate 3584 (1 : Byte)).length ≤ 3584 ∧ 3583 < (List.replicate 3584 (1 : Byte)).length := by
  simp only [List.length_replicate]; decide

/-- Each clause: a session not running, one past construction, one not right after load_glyphs, an oversized image,
a refused move. -/
theorem witness_HostProtocolIsEnforced :
    Session.start.phase ≠ .running ∧ (Session.start.move .loadGlyphs).1.phase ≠ .constructed
      ∧ (⟨State.reset, .running⟩ : Session).phase ≠ .glyphsLoaded
      ∧ ((List.replicate 3585 (0 : Byte)).length > 3584 ∧ (Session.start.move .loadGlyphs).1.phase = .glyphsLoaded)
      ∧ (Session.start.move .cycle).2 = .refused .notBooted :=
  ⟨by decide, by decide, by decide, ⟨by simp only [List.length_replicate]; decide, rfl⟩, rfl⟩

/-- Each clause: the phases of the boot order, the empty and the longest image, a cycle that completes and one that
reports. -/
theorem witness_HostProtocolIsServed :
    Session.start.phase = .constructed ∧ (Session.start.move .loadGlyphs).1.phase = .glyphsLoaded
      ∧ ([] : List Byte).length ≤ 3584 ∧ (List.replicate 3584 (0 : Byte)).length ≤ 3584
      ∧ ((⟨at' 0x00E0 State.reset, .running⟩ : Session).phase = .running
        ∧ ∃ t, step (at' 0x00E0 State.reset) = .next t)
      ∧ ((⟨State.reset, .running⟩ : Session).phase = .running
        ∧ step State.reset = .fault (.unknownOpcode 0 0x200)) :=
  ⟨rfl, rfl, by decide, by simp only [List.length_replicate]; decide, ⟨rfl, _, rfl⟩, rfl, rfl⟩

/-- A session that meets the invariant and is no start: a running one. -/
theorem witness_EveryHostHistoryKeepsTheInvariant :
    Safety.Inv (⟨(State.reset.setI 0xFFF).setPc 0x10FE, .running⟩ : Session).state := by decide

end Sys2Proof.Tests
end

section
/-! The flag operations of 41_register_arithmetic.md R127 to R131 under the open parameters of R7: where each parameter
has no effect. -/

namespace Sys2Proof.Proofs.OpenParameters

open Sys2Proof Sys2Proof.Machine

/-! ### The meanings of the five flag operations (R88) -/

theorem exec_addReg (x y : Reg) (s : State) : exec (.addReg x y) s = addRegisters params x y s := rfl

theorem exec_subReg (x y : Reg) (s : State) : exec (.subReg x y) s = subtract params x y s := rfl

theorem exec_subnReg (x y : Reg) (s : State) : exec (.subnReg x y) s = subtractReverse params x y s := rfl

theorem exec_shr (x y : Reg) (s : State) : exec (.shr x y) s = shiftRight params x y s := rfl

theorem exec_shl (x y : Reg) (s : State) : exec (.shl x y) s = shiftLeft params x y s := rfl

/-! ### SUB_EQ_FLAG: read only when the operands are equal (R128, R129) -/

theorem noBorrowFlag_of_ne (p p' : Config.Params) {a b : Byte} (h : a ≠ b) :
    noBorrowFlag p a b = noBorrowFlag p' a b := by
  simp only [noBorrowFlag, if_neg h]

theorem subtract_subEqFlag (p : Config.Params) (q : Bool) {x y : Reg} {s : State} (h : s.reg x ≠ s.reg y) :
    subtract { p with subEqFlag := q } x y s = subtract p x y s := by
  unfold subtract
  rw [noBorrowFlag_of_ne _ p h]
  rfl

theorem subtractReverse_subEqFlag (p : Config.Params) (q : Bool) {x y : Reg} {s : State} (h : s.reg x ≠ s.reg y) :
    subtractReverse { p with subEqFlag := q } x y s = subtractReverse p x y s := by
  unfold subtractReverse
  rw [noBorrowFlag_of_ne _ p h.symm]
  rfl

/-! ### VF_ORDER: the two writes commute unless both are to `VF` (R121) -/

theorem setReg_comm (s : State) {x y : Reg} (a b : Byte) (h : x ≠ y) :
    (s.setReg x a).setReg y b = (s.setReg y b).setReg x a := by
  simp only [State.setReg, Vector.set_comm a b (Fin.val_ne_of_ne h)]

theorem setResultFlag_of_ne_VF (p : Config.Params) (s : State) {x : Reg} (r : Byte) (f : Bool) (h : x ≠ VF) :
    s.setResultFlag p x r f = (s.setReg x r).setReg VF (flagByte f) := by
  unfold State.setResultFlag
  split
  · rfl
  · exact (setReg_comm s r (flagByte f) h).symm

theorem writeRegFlag_of_ne_VF (p p' : Config.Params) {x : Reg} (r : Byte) (f : Bool) (s : State) (h : x ≠ VF) :
    writeRegFlag p x r f s = writeRegFlag p' x r f s := by
  simp only [writeRegFlag, setResultFlag_of_ne_VF _ s r f h]

/-! ### SHIFT_SOURCE: both sources are the same register when `x` = `y` (R130, R131) -/

@[simp] theorem shiftOperand_self (p : Config.Params) (x : Reg) : shiftOperand p x x = x := by
  unfold shiftOperand
  split <;> rfl

theorem shiftRight_shiftSource (p : Config.Params) (w : Config.ShiftSource) (x : Reg) (s : State) :
    shiftRight { p with shiftSource := w } x x s = shiftRight p x x s := by
  simp only [shiftRight, shiftOperand_self]
  rfl

theorem shiftLeft_shiftSource (p : Config.Params) (w : Config.ShiftSource) (x : Reg) (s : State) :
    shiftLeft { p with shiftSource := w } x x s = shiftLeft p x x s := by
  simp only [shiftLeft, shiftOperand_self]
  rfl

/-- Settles O37: away from its corner, each parameter is not read, or chooses between equal values. -/
theorem openParametersMatterOnlyInTheirCorner : Obligations.OpenParametersMatterOnlyInTheirCorner := by
  intro x y s
  simp only [exec_addReg, exec_subReg, exec_subnReg, exec_shr, exec_shl]
  refine ⟨fun hne q => ?_, fun hx o => ?_, fun w => ?_⟩
  · exact ⟨subtract_subEqFlag params q hne, subtractReverse_subEqFlag params q hne⟩
  · have hwrite (r : Byte) (f : Bool) := writeRegFlag_of_ne_VF { params with vfOrder := o } params r f s hx
    exact ⟨hwrite _ _, hwrite _ _, hwrite _ _, hwrite _ _, hwrite _ _⟩
  · exact ⟨shiftRight_shiftSource params w x s, shiftLeft_shiftSource params w x s⟩

end Sys2Proof.Proofs.OpenParameters
end

section
/-! What a completed instruction can leave behind, said once (30_encoding.md R88): the update of the state, with the
facts about the written values that the statements of 10_state.md turn on. -/

namespace Sys2Proof.Proofs.Effects

open Sys2Proof Sys2Proof.Machine

/-! ### The instructions that share an update -/

/-- The instructions whose one write is to `V[x]`: 6xkk, 7xkk, 8xy0 to 8xy3, Fx07 and Fx0A (R21). -/
def LoadsReg (x : Reg) (i : Instr) : Prop :=
  (∃ kk, i = .ldImm x kk ∨ i = .addImm x kk) ∨
  (∃ y, i = .ldReg x y ∨ i = .orReg x y ∨ i = .andReg x y ∨ i = .xorReg x y) ∨
  i = .ldVxDT x ∨ i = .ldVxK x

/-- 8xy4, 8xy5, 8xy6, 8xy7 and 8xyE, which write `VF` as a flag (R21). -/
def FlagOp (i : Instr) : Prop :=
  ∃ x y, i = .addReg x y ∨ i = .subReg x y ∨ i = .shr x y ∨ i = .subnReg x y ∨ i = .shl x y

/-- Annn, Fx1E and Fx29, which write `I` (R23). -/
def IndexOp (i : Instr) : Prop := (∃ nnn, i = .ldI nnn) ∨ ∃ x, i = .addI x ∨ i = .ldF x

/-- Fx33 and Fx55, which write memory (R50). -/
def StoreOp (i : Instr) : Prop := ∃ x, i = .ldB x ∨ i = .storeRegs x

/-- `Effect s i t`: the update by which `i`, when it completes, takes `s` to `t`. -/
inductive Effect (s : State) : Instr → State → Prop
  | jump {i : Instr} {a : Word} (ha : a.toNat ≤ 0x10FE) : Effect s i (s.setPc a)
  | skip {i : Instr} (c : Bool) : Effect s i (s.skipIf c)
  | wait (x : Reg) : Effect s (.ldVxK x) s
  | ret {p : Fin 17} (j : Fin 16) : Effect s .ret (({ s with sp := p } : State).setPc (s.slot j))
  | call {nnn : Addr12} {stack : Vector Word 16} {p : Fin 17}
      (hstack : ∀ j : Fin 16, stack[j] = s.pc + 2 ∨ stack[j] = s.slot j) :
      Effect s (.call nnn) (({ s with stack := stack, sp := p } : State).setPc (absolute nnn))
  | load {i : Instr} {x : Reg} {b : Byte} (hi : LoadsReg x i) : Effect s i (s.setReg x b).advance
  | flag {i : Instr} {x : Reg} {r : Byte} {f : Bool} (hi : FlagOp i) :
      Effect s i ((s.setReg x r).setReg VF (flagByte f)).advance
  | random {x : Reg} {kk b : Byte} : Effect s (.rnd x kk) (s.setReg x b).drawn.advance
  | block (x : Reg) : Effect s (.loadRegs x) (s.setV (loadList s.mem s.i.toNat (regsUpTo x) s.v)).advance
  | index {i : Instr} {a : Word} (hi : IndexOp i) (ha : a.toNat ≤ 0xFFF) : Effect s i (s.setI a).advance
  | store {i : Instr} {a : Nat} {bs : List Byte} (hi : StoreOp i) : Effect s i (s.storeBytes a bs).advance
  | clear : Effect s .cls (s.setFb FrameBuffer.clear).advance
  | draw {x y : Reg} {n : Fin 16} {fb : FrameBuffer} {b : Byte} :
      Effect s (.drw x y n) ((s.setFb fb).setReg VF b).advance
  | delay {x : Reg} {b : Byte} : Effect s (.ldDTVx x) (s.setDt b).advance
  | sound {x : Reg} {b : Byte} : Effect s (.ldSTVx x) (s.setSt b).advance

/-! ### The instructions whose update takes an argument -/

variable {s t : State}

theorem execRet_effect (h : execRet s = .next t) : Effect s .ret t := by
  unfold execRet at h
  split at h
  · cases h
  · next a u hpop =>
    cases h
    obtain ⟨hpos, hsp, hslot, hu⟩ := Laws.Ops.pop_eq_some hpop
    have ha : a = s.slot ⟨s.sp.val - 1, by omega⟩ := hslot _ (Nat.sub_add_cancel hpos)
    rw [hu, ha]
    exact .ret _

theorem execCall_effect {nnn : Addr12} (h : execCall nnn s = .next t) : Effect s (.call nnn) t := by
  unfold execCall at h
  split at h
  · cases h
  · next u hpush =>
    cases h
    obtain ⟨-, -, hslot, hu⟩ := Laws.Ops.push_eq_some hpush
    rw [hu]
    refine .call fun j => ?_
    have hj : u.stack[j] = if j.val = s.sp.val then s.pc + 2 else s.slot j := hslot j
    rw [hj]
    split
    · exact .inl rfl
    · exact .inr rfl

/-- The sum of Bnnn is at most 0xFFF + 0xFF (R109). -/
theorem jpV0_target_le (nnn : Addr12) (b : Byte) : (absolute nnn + zextByte b).toNat ≤ 0x10FE := by
  have hn := nnn.isLt
  have hb := b.isLt
  rw [BitVec.toNat_add, Laws.Ops.absolute_toNat, Laws.Ops.zextByte_toNat]
  omega

theorem absolute_le (nnn : Addr12) : (absolute nnn).toNat ≤ 0xFFF := by
  have hn := nnn.isLt
  rw [Laws.Ops.absolute_toNat]
  omega

/-- The last glyph starts at 75 (R142; log entry 8). -/
theorem glyphAddress_le (b : Byte) : (glyphAddress (b &&& 0x0F).toNat).toNat ≤ 0xFFF := by
  have hd : (b &&& 0x0F).toNat ≤ 15 := by rw [BitVec.toNat_and]; exact Nat.and_le_right
  rw [glyphAddress, BitVec.toNat_ofNat]
  exact Nat.le_trans (Nat.mod_le _ _) (by omega)

theorem execAddI_effect {x : Reg} (h : execAddI x s = .next t) : Effect s (.addI x) t := by
  unfold execAddI at h
  by_cases hsum : s.i.toNat + (s.reg x).toNat ≤ 0xFFF
  · rw [Laws.Ops.addToIndex_inside x s hsum] at h
    cases h
    refine .index (.inr ⟨x, .inl rfl⟩) ?_
    rw [BitVec.toNat_add, Laws.Ops.zextByte_toNat]
    omega
  · rw [Laws.Ops.addToIndex_outside x s (by omega)] at h
    cases h

theorem execDrw_effect {x y : Reg} {n : Fin 16} (h : execDrw x y n s = .next t) : Effect s (.drw x y n) t := by
  unfold execDrw drawSprite at h
  split at h
  · cases h
  · cases h; exact .draw

theorem skipOnKey_effect {i : Instr} {x : Reg} {want : Bool} (h : skipOnKey params x want s = .next t) :
    Effect s i t := by
  obtain ⟨-, hk⟩ | ⟨k, -, hk⟩ := Laws.Ops.skipOnKey_cases x want s
  · rw [hk] at h; cases h
  · rw [hk] at h; cases h; exact .skip _

theorem execLdVxK_effect {x : Reg} (h : execLdVxK x s = .next t) : Effect s (.ldVxK x) t := by
  unfold execLdVxK at h
  obtain ⟨-, hk⟩ | ⟨k, -, -, hk⟩ := Laws.Ops.waitKey_cases x s
  · rw [hk] at h; cases h; exact .wait x
  · rw [hk] at h; cases h; exact .load (.inr (.inr (.inr rfl)))

/-! ### Every instruction -/

/-- A completed instruction made one of the updates of `Effect`. -/
theorem exec_effect {i : Instr} (h : exec i s = .next t) : Effect s i t := by
  cases i with
  | cls => cases h; exact .clear
  | ret => exact execRet_effect h
  | jp nnn => cases h; exact .jump (Nat.le_trans (absolute_le nnn) (by decide))
  | jpV0 nnn => cases h; exact .jump (jpV0_target_le nnn _)
  | call nnn => exact execCall_effect h
  | seImm | sneImm | seReg | sneReg => cases h; exact .skip _
  | skp | sknp => exact skipOnKey_effect h
  | ldImm x kk => cases h; exact .load (.inl ⟨kk, .inl rfl⟩)
  | addImm x kk => cases h; exact .load (.inl ⟨kk, .inr rfl⟩)
  | ldReg x y => cases h; exact .load (.inr (.inl ⟨y, .inl rfl⟩))
  | orReg x y => cases h; exact .load (.inr (.inl ⟨y, .inr (.inl rfl)⟩))
  | andReg x y => cases h; exact .load (.inr (.inl ⟨y, .inr (.inr (.inl rfl))⟩))
  | xorReg x y => cases h; exact .load (.inr (.inl ⟨y, .inr (.inr (.inr rfl))⟩))
  | ldVxDT => cases h; exact .load (.inr (.inr (.inl rfl)))
  | ldVxK => exact execLdVxK_effect h
  | addReg x y => cases h; exact .flag ⟨x, y, .inl rfl⟩
  | subReg x y => cases h; exact .flag ⟨x, y, .inr (.inl rfl)⟩
  | shr x y => cases h; exact .flag ⟨x, y, .inr (.inr (.inl rfl))⟩
  | subnReg x y => cases h; exact .flag ⟨x, y, .inr (.inr (.inr (.inl rfl)))⟩
  | shl x y => cases h; exact .flag ⟨x, y, .inr (.inr (.inr (.inr rfl)))⟩
  | rnd => cases h; exact .random
  | ldI nnn => cases h; exact .index (.inl ⟨nnn, rfl⟩) (absolute_le nnn)
  | addI => exact execAddI_effect h
  | ldF x => cases h; exact .index (.inr ⟨x, .inr rfl⟩) (glyphAddress_le _)
  | drw => exact execDrw_effect h
  | ldDTVx => cases h; exact .delay
  | ldSTVx => cases h; exact .sound
  | ldB x =>
    obtain ⟨-, hgo⟩ := Laws.Ops.checkLast_next h
    cases hgo; exact .store ⟨x, .inl rfl⟩
  | storeRegs x =>
    obtain ⟨-, hgo⟩ := Laws.Ops.checkLast_next h
    cases hgo; exact .store ⟨x, .inr rfl⟩
  | loadRegs x =>
    obtain ⟨-, hgo⟩ := Laws.Ops.checkLast_next h
    cases hgo; exact .block x

end Sys2Proof.Proofs.Effects
end

section
/-! The invariant of reachable states (10_state.md R40): the cycle, the boot and every move of the host keep it. -/

namespace Sys2Proof.Proofs.Invariant

open Sys2Proof Sys2Proof.Machine Sys2Proof.Safety Sys2Proof.Proofs.Effects

/-! ### The cycle, one conjunct of the invariant at a time -/

section Cycle

variable {s t : State} {i : Instr}

theorem effect_index_le (h : Effect s i t) (hi : s.i.toNat ≤ 0xFFF) : t.i.toNat ≤ 0xFFF := by
  cases h with
  | index _ ha => exact ha
  | _ => exact hi

/-- From a `PC` the fetch lets through, neither an advance nor a skip wraps (log entry 30). -/
theorem pc_add_toNat {pc : Word} (hpc : pc.toNat ≤ 0xFFE) :
    (pc + 2).toNat = pc.toNat + 2 ∧ (pc + 4).toNat = pc.toNat + 4 := by
  constructor <;> bv_omega

theorem effect_pc_le (h : Effect s i t) (hpc : s.pc.toNat ≤ 0xFFE) (hslots : ∀ j, slotLegal (s.slot j)) :
    t.pc.toNat ≤ 0x10FE := by
  obtain ⟨hnext, hskip⟩ := pc_add_toNat hpc
  cases h with
  | jump ha => exact ha
  | skip c =>
    rw [Laws.State.skipIf_pc]
    split <;> omega
  | wait => omega
  | ret j =>
    rw [Laws.State.setPc_pc]
    rcases hslots j with hj | hj <;> omega
  | call =>
    rw [Laws.State.setPc_pc]
    exact Nat.le_trans (absolute_le _) (by decide)
  | _ => exact Nat.le_trans (Nat.le_of_eq hnext) (by omega)

theorem effect_slot_legal (h : Effect s i t) (hpc : s.pc.toNat ≤ 0xFFE) (hslots : ∀ j, slotLegal (s.slot j)) :
    ∀ j, slotLegal (t.slot j) := by
  cases h with
  | call hstack =>
    intro j
    obtain hj | hj := hstack j
    · rw [Laws.State.setPc_slot, State.slot, hj]
      rw [slotLegal, (pc_add_toNat hpc).1]
      omega
    · rw [Laws.State.setPc_slot, State.slot, hj]
      exact hslots j
  | _ => exact hslots

theorem effect_mem_wf (h : Effect s i t) (hmem : s.mem.wf = true) : t.mem.wf = true := by
  cases h with
  | store => exact Laws.Memory.wf_writeBytes _ _ _ hmem
  | _ => exact hmem

theorem step_keeps_inv (hinv : Inv s) (h : step s = .next t) : Inv t := by
  obtain ⟨op, i, u, hfetch, -, hexec, rfl⟩ := Laws.Step.step_next h
  obtain ⟨hpc, -⟩ := Laws.Ops.fetch_ok hfetch
  obtain ⟨hi, -, hslots, hmem⟩ := hinv
  have heff := exec_effect hexec
  have hu : Inv u := ⟨effect_index_le heff hi, effect_pc_le heff hpc hslots, effect_slot_legal heff hpc hslots,
    effect_mem_wf heff hmem⟩
  exact hu

end Cycle

/-- Settles O15: each completed instruction keeps each range, from a `PC` the fetch let through. -/
theorem invariantKeptByEveryCycle : Obligations.InvariantKeptByEveryCycle :=
  fun _ _ hinv h => step_keeps_inv hinv h

/-! ### Reset, loads and key input -/

theorem reset_inv : Inv State.reset := by decide

theorem reconstruct_inv (s : State) : Inv s.reconstruct := reset_inv

theorem storeBytes_keeps_inv {s : State} (a : Nat) (bs : List Byte) (hinv : Inv s) : Inv (s.storeBytes a bs) := by
  obtain ⟨hi, hpc, hslots, hmem⟩ := hinv
  exact ⟨hi, hpc, hslots, Laws.Memory.wf_writeBytes bs _ a hmem⟩

theorem loadGlyphs_keeps_inv {s : State} (hinv : Inv s) : Inv (loadGlyphs s) :=
  storeBytes_keeps_inv glyphBase params.glyphTable hinv

theorem setKeys_keeps_inv {s : State} (k : Keys) (hinv : Inv s) : Inv (s.setKeys k) := hinv

/-- Settles O16: the boot is two block stores into the reset state. -/
theorem resetMeetsTheInvariant : Obligations.ResetMeetsTheInvariant :=
  ⟨reset_inv, fun image hfits =>
    ⟨_, Laws.HostPort.loadProgram_fits image _ hfits,
      storeBytes_keeps_inv 0x200 image (loadGlyphs_keeps_inv reset_inv)⟩⟩

/-! ### The host's moves -/

theorem move_keeps_inv (h : Session) (m : HostMove) (hinv : Inv h.state) : Inv (h.move m).1.state := by
  obtain hm | hm | hm | ⟨image, -, hm⟩ | ⟨k, hm⟩ | hm := Laws.HostPort.move_state h m
  · rw [hm]; exact hinv
  · rw [hm]; exact reconstruct_inv _
  · rw [hm]; exact loadGlyphs_keeps_inv hinv
  · rw [hm]; exact storeBytes_keeps_inv 0x200 image hinv
  · rw [hm]; exact setKeys_keeps_inv k hinv
  · exact step_keeps_inv hinv hm

theorem moves_keep_inv (moves : List HostMove) :
    ∀ h : Session, Inv h.state → Inv (moves.foldl (fun h m => (h.move m).1) h).state := by
  induction moves with
  | nil => exact fun _ hinv => hinv
  | cons m ms ih => exact fun h hinv => ih _ (move_keeps_inv h m hinv)

/-- Settles O17: by the step lemma over one move, and induction on the moves. -/
theorem everyHostHistoryKeepsTheInvariant : Obligations.EveryHostHistoryKeepsTheInvariant :=
  ⟨reset_inv, move_keeps_inv, fun h moves => moves_keep_inv moves h⟩

/-! ### The reset state -/

/-- Settles O55: the vectors of the construction repeat one value, and its memory lists no cell. -/
theorem resetState : Obligations.ResetState := by
  have hreg (r : Reg) : State.reset.reg r = 0 := by simp [State.reset, State.reg]
  have hslot (j : Fin 16) : State.reset.slot j = 0 := by simp [State.reset, State.slot]
  exact ⟨hreg, rfl, rfl, hslot, rfl, rfl, rfl, fun _ => rfl, Laws.Registers.cell_clear⟩

end Sys2Proof.Proofs.Invariant
end

section
/-! Which instruction writes which piece of state (10_state.md R21, R23, R28, R32, R50). -/

namespace Sys2Proof.Proofs.Writers

open Sys2Proof Sys2Proof.Machine Sys2Proof.Safety Sys2Proof.Proofs.Effects

variable {s t : State} {i : Instr}

theorem screen_writer (h : Effect s i t) (hw : ¬ KeepsScreen s t) : i = .cls ∨ ∃ x y n, i = .drw x y n := by
  cases h with
  | clear => exact .inl rfl
  | draw => exact .inr ⟨_, _, _, rfl⟩
  | _ => exact absurd (fun _ _ => rfl) hw

theorem memory_writer (h : Effect s i t) (hw : ¬ KeepsMemory s t) : StoreOp i := by
  cases h with
  | store hi => exact hi
  | _ => exact absurd (fun _ => rfl) hw

theorem index_writer (h : Effect s i t) (hw : ¬ KeepsI s t) : IndexOp i := by
  cases h with
  | index hi => exact hi
  | _ => exact absurd rfl hw

theorem slot_writer (h : Effect s i t) (j : Fin 16) (hw : t.slot j ≠ s.slot j) : ∃ nnn, i = .call nnn := by
  cases h with
  | call => exact ⟨_, rfl⟩
  | _ => exact absurd rfl hw

theorem sp_writer (h : Effect s i t) (hw : t.sp ≠ s.sp) : i = .ret ∨ ∃ nnn, i = .call nnn := by
  cases h with
  | ret => exact .inl rfl
  | call => exact .inr ⟨_, rfl⟩
  | _ => exact absurd rfl hw

theorem dt_writer (h : Effect s i t) (hw : t.dt ≠ s.dt) : ∃ x, i = .ldDTVx x := by
  cases h with
  | delay => exact ⟨_, rfl⟩
  | _ => exact absurd rfl hw

theorem st_writer (h : Effect s i t) (hw : t.st ≠ s.st) : ∃ x, i = .ldSTVx x := by
  cases h with
  | sound => exact ⟨_, rfl⟩
  | _ => exact absurd rfl hw

theorem effect_keeps_keys (h : Effect s i t) : KeepsKeys s t := by
  cases h <;> exact fun _ => rfl

theorem draws_writer (h : Effect s i t) (hw : t.draws ≠ s.draws) : ∃ x kk, i = .rnd x kk := by
  cases h with
  | random => exact ⟨_, _, rfl⟩
  | _ => exact absurd rfl hw

/-- Settles O18: for each piece of state, the updates that write it. -/
theorem onlyTheNamedInstructionsWrite : Obligations.OnlyTheNamedInstructionsWrite := by
  intro i s t hexec
  have h := exec_effect hexec
  exact ⟨screen_writer h, memory_writer h, index_writer h, slot_writer h, sp_writer h, dt_writer h, st_writer h,
    effect_keeps_keys h, draws_writer h⟩

/-! ### `VF` (R21) -/

/-- A write that changes `VF` is a write to `VF`. -/
theorem eq_VF_of_setReg_ne {x : Reg} {b : Byte} (hw : (s.setReg x b).reg VF ≠ s.reg VF) : x = VF := by
  by_contra hx
  exact hw (Laws.Registers.reg_setReg_other s b (Ne.symm hx))

/-- A block load that changes `VF` loads all sixteen registers (R145). -/
theorem eq_VF_of_loadList_ne {x : Reg} {m : Memory} {a : Nat} {v : Vector Byte 16}
    (hw : (loadList m a (regsUpTo x) v)[VF] ≠ v[VF]) : x = VF := by
  rw [Laws.Registers.getElem_loadList] at hw
  by_contra hx
  exact hw (if_neg fun hmem => hx (Fin.le_antisymm (Fin.le_last x) ((Laws.Registers.mem_regsUpTo x VF).mp hmem)))

/-- Settles O19: an update that changes `VF` is a flag operation, a draw, or a load whose destination is `VF`. -/
theorem onlyTheNamedInstructionsWriteVF : Obligations.OnlyTheNamedInstructionsWriteVF := by
  intro i s t hexec hw
  cases exec_effect hexec with
  | flag hi => exact .inl hi
  | draw => exact .inr (.inl ⟨_, _, _, rfl⟩)
  | random =>
    obtain rfl := eq_VF_of_setReg_ne hw
    exact .inr (.inr (.inl ⟨_, .inr (.inr rfl)⟩))
  | block x =>
    obtain rfl := eq_VF_of_loadList_ne hw
    exact .inr (.inr (.inr (.inr (.inr (.inr rfl)))))
  | load hi =>
    obtain rfl := eq_VF_of_setReg_ne hw
    obtain ⟨kk, hi | hi⟩ | hi | hi | hi := hi
    · exact .inr (.inr (.inl ⟨kk, .inl hi⟩))
    · exact .inr (.inr (.inl ⟨kk, .inr (.inl hi)⟩))
    · exact .inr (.inr (.inr (.inl hi)))
    · exact .inr (.inr (.inr (.inr (.inl hi))))
    · exact .inr (.inr (.inr (.inr (.inr (.inl hi)))))
  | _ => exact absurd rfl hw

end Sys2Proof.Proofs.Writers
end

section
/-! The keys as an input: which instructions read them (10_state.md R32, section 7). -/

namespace Sys2Proof.Proofs.KeysInput

open Sys2Proof Sys2Proof.Machine Sys2Proof.Safety

variable (s : State) (k : Keys)

/-! ### The shared operations under a key input -/

theorem pop_setKeys : (s.setKeys k).pop = s.pop.map fun r => (r.1, r.2.setKeys k) := by
  by_cases h : 0 < s.sp.val
  · rw [State.pop, State.pop, dif_pos h, dif_pos (show 0 < (s.setKeys k).sp.val from h)]
    rfl
  · rw [State.pop, State.pop, dif_neg h, dif_neg (show ¬ 0 < (s.setKeys k).sp.val from h)]
    rfl

theorem push_setKeys (a : Word) : (s.setKeys k).push a = (s.push a).map fun t => t.setKeys k := by
  by_cases h : s.sp.val < 16
  · rw [State.push, State.push, dif_pos h, dif_pos (show (s.setKeys k).sp.val < 16 from h)]
    rfl
  · rw [State.push, State.push, dif_neg h, dif_neg (show ¬ (s.setKeys k).sp.val < 16 from h)]
    rfl

theorem checkLast_setKeys (last : Nat) (t : State) :
    checkLast last (s.setKeys k) (.next (t.setKeys k)) =
      mapNext (fun t => t.setKeys k) (checkLast last s (.next t)) := by
  unfold checkLast
  split <;> rfl

/-! ### The instructions that can raise and read no key -/

theorem execRet_setKeys : execRet (s.setKeys k) = mapNext (fun t => t.setKeys k) (execRet s) := by
  unfold execRet
  rw [pop_setKeys]
  cases s.pop <;> rfl

theorem execCall_setKeys (nnn : Addr12) :
    execCall nnn (s.setKeys k) = mapNext (fun t => t.setKeys k) (execCall nnn s) := by
  unfold execCall
  rw [Laws.State.setKeys_pc, push_setKeys]
  cases s.push (s.pc + 2) <;> rfl

theorem execAddI_setKeys (x : Reg) :
    execAddI x (s.setKeys k) = mapNext (fun t => t.setKeys k) (execAddI x s) := by
  unfold execAddI
  by_cases h : s.i.toNat + (s.reg x).toNat ≤ 0xFFF
  · rw [Laws.Ops.addToIndex_inside x s h, Laws.Ops.addToIndex_inside x (s.setKeys k) h]
    rfl
  · rw [Laws.Ops.addToIndex_outside x s (by omega), Laws.Ops.addToIndex_outside x (s.setKeys k) (by simpa using h)]
    rfl

theorem execDrw_setKeys (x y : Reg) (n : Fin 16) :
    execDrw x y n (s.setKeys k) = mapNext (fun t => t.setKeys k) (execDrw x y n s) := by
  unfold execDrw drawSprite
  rw [Laws.State.setKeys_i]
  split <;> rfl

/-- Settles O20: an instruction that reads no key makes the same checks and the same updates under any keys. -/
theorem keysReachOnlyTheInputInstructions : Obligations.KeysReachOnlyTheInputInstructions := by
  intro i s k hi
  cases i with
  | skp x => exact absurd rfl (hi x).1
  | sknp x => exact absurd rfl (hi x).2.1
  | ldVxK x => exact absurd rfl (hi x).2.2
  | ret => exact execRet_setKeys s k
  | call nnn => exact execCall_setKeys s k nnn
  | addI x => exact execAddI_setKeys s k x
  | drw x y n => exact execDrw_setKeys s k x y n
  | ldB x => exact checkLast_setKeys s k _ (s.storeBytes s.i.toNat (decimalDigits (s.reg x))).advance
  | storeRegs x => exact checkLast_setKeys s k _ (s.storeBytes s.i.toNat ((regsUpTo x).map s.reg)).advance
  | loadRegs x => exact checkLast_setKeys s k _ (s.setV (loadList s.mem s.i.toNat (regsUpTo x) s.v)).advance
  | _ => rfl

end Sys2Proof.Proofs.KeysInput
end

section
/-! The fetch and what is stored under it (20_memory.md R52, R60, R62; 30_encoding.md R86, R87). -/

namespace Sys2Proof.Proofs.StoredCode

open Sys2Proof Sys2Proof.Machine Sys2Proof.Safety

/-! ### The opcode fetched -/

/-- The opcode fetched, and each of its bytes on its own (R52, R86). -/
theorem fetch_bytes (s : State) (hpc : s.pc.toNat + 1 ≤ 0xFFF) :
    ∃ op, s.fetch = .ok op ∧ op.toNat = (s.byte s.pc.toNat).toNat * 256 + (s.byte (s.pc.toNat + 1)).toNat ∧
      op.toNat / 256 = (s.byte s.pc.toNat).toNat ∧ op.toNat % 256 = (s.byte (s.pc.toNat + 1)).toNat := by
  have hlo := (s.byte (s.pc.toNat + 1)).isLt
  have hop := Laws.Decode.toNat_opcodeOf (s.byte s.pc.toNat) (s.byte (s.pc.toNat + 1))
  exact ⟨_, Laws.Ops.fetch_inside s (by omega), hop, by omega, by omega⟩

/-- Byte `j` of an image that fits, after the load (R243). -/
theorem byte_loadedImage (image : List Byte) (s : State) {j : Nat} (hfits : image.length ≤ 3584)
    (hj : j < image.length) : (s.storeBytes 0x200 image).byte (0x200 + j) = image.getD j 0 := by
  have hroom : 0x200 + image.length ≤ memSize := by rw [memSize]; omega
  rw [Laws.Memory.storeBytes_byte_inside s 0x200 j image hroom hj, List.getD_eq_getElem image 0 hj]

/-- Settles O8: the fetch joins the two bytes, and after a load these are bytes `j` and `j + 1` of the image. -/
theorem fetchIsBigEndian : Obligations.FetchIsBigEndian := by
  constructor
  · intro s hpc
    obtain ⟨op, hfetch, hop, -⟩ := fetch_bytes s hpc
    exact ⟨op, hfetch, hop⟩
  · intro image s j hfits hj hpc
    have hin : (s.storeBytes 0x200 image).pc.toNat + 1 ≤ 0xFFF := by rw [Laws.State.storeBytes_pc]; omega
    obtain ⟨op, hfetch, hop, -⟩ := fetch_bytes _ hin
    refine ⟨_, op, Laws.HostPort.loadProgram_fits image s hfits, hfetch, ?_⟩
    rw [hop, Laws.State.storeBytes_pc, hpc, byte_loadedImage image s hfits (by omega), Nat.add_assoc,
      byte_loadedImage image s hfits hj]

/-! ### An instruction placed at `PC` -/

/-- Decoding gives back what was encoded: the family selects the branch, and the fields are what was packed (R73, R87). -/
theorem decode_encode (i : Instr) : decode (encode i) = some i := by
  cases i with
  | cls | ret => decide
  | jp | call | ldI | jpV0 | seImm | sneImm | ldImm | addImm | rnd | drw => simp [decode, decodeWith, encode]
  | seReg | sneReg => simp [decode, decodeWith, encode, decodeLowNibble0]
  | ldReg | orReg | andReg | xorReg | addReg | subReg | shr | subnReg | shl =>
    simp [decode, decodeWith, encode, decodeFamily8]
  | skp | sknp => simp [decode, decodeWith, encode, decodeFamilyE]
  | ldVxDT | ldVxK | ldDTVx | ldSTVx | addI | ldF | ldB | storeRegs | loadRegs =>
    simp [decode, decodeWith, encode, decodeFamilyF]

/-- A 16-bit word is placed as its two bytes, high byte at `PC` (R52). -/
theorem withFetchWord_word (s : State) (op : Word) :
    s.withFetchWord 16 op.toNat = s.storeBytes s.pc.toNat [opHigh op, opLow op] := by
  rw [State.withFetchWord, Nat.mod_eq_of_lt op.isLt, BitVec.ofNat_toNat, BitVec.setWidth_eq]

/-- The fetch gives the word placed at `PC`. -/
theorem fetch_withFetchWord (s : State) (op : Word) (hpc : s.pc.toNat + 1 ≤ 0xFFF) :
    (s.withFetchWord 16 op.toNat).fetch = .ok op := by
  have hroom : s.pc.toNat + [opHigh op, opLow op].length ≤ memSize := Nat.succ_le_succ hpc
  have hhi : (s.storeBytes s.pc.toNat [opHigh op, opLow op]).byte s.pc.toNat = opHigh op :=
    Laws.Memory.storeBytes_byte_inside s s.pc.toNat 0 _ hroom Nat.zero_lt_two
  have hlo : (s.storeBytes s.pc.toNat [opHigh op, opLow op]).byte (s.pc.toNat + 1) = opLow op :=
    Laws.Memory.storeBytes_byte_inside s s.pc.toNat 1 _ hroom Nat.one_lt_two
  have hin : (s.storeBytes s.pc.toNat [opHigh op, opLow op]).pc.toNat ≤ 0xFFE := Nat.le_of_succ_le_succ hpc
  rw [withFetchWord_word, Laws.Ops.fetch_inside _ hin, Laws.State.storeBytes_pc, hhi, hlo,
    Laws.Decode.opcodeOf_bytes]

theorem storeBytes_keepsButMemory (s : State) (a : Nat) (bs : List Byte) : KeepsButMemory s (s.storeBytes a bs) :=
  ⟨fun _ => rfl, rfl, ⟨rfl, fun _ => rfl⟩, ⟨rfl, rfl⟩, fun _ _ => rfl, fun _ => rfl, rfl⟩

theorem storeBytes_keepsMemoryBut (s : State) (a : Nat) (bs : List Byte) :
    KeepsMemoryBut a bs.length s (s.storeBytes a bs) :=
  fun b hb => Laws.Memory.storeBytes_byte_outside s a b bs hb

/-- Settles O7: the fetch gives the opcode placed, which decodes to the instruction; the placing is a store of two
bytes. -/
theorem placedInstructionRunsNext : Obligations.PlacedInstructionRunsNext := by
  intro s i hpc
  refine ⟨Laws.Step.step_decoded (fetch_withFetchWord s (encode i) hpc) (decode_encode i), ?_⟩
  rw [withFetchWord_word]
  exact ⟨rfl, storeBytes_keepsMemoryBut s _ [_, _], storeBytes_keepsButMemory s _ _⟩

/-! ### The bytes stored by Fx55 and Fx33 -/

section Stores

variable {s : State} {x : Reg}

/-- Fx55 that stays inside memory stores its block and advances (R144). -/
theorem exec_storeRegs_inside (h : s.i.toNat + x.val ≤ 0xFFF) :
    exec (.storeRegs x) s = .next (s.storeBytes s.i.toNat ((regsUpTo x).map s.reg)).advance :=
  Laws.Ops.checkLast_inside s _ h

/-- Fx33 that stays inside memory stores its digits and advances (R143). -/
theorem exec_ldB_inside (h : s.i.toNat + 2 ≤ 0xFFF) :
    exec (.ldB x) s = .next (s.storeBytes s.i.toNat (decimalDigits (s.reg x))).advance :=
  Laws.Ops.checkLast_inside s _ h

theorem regBlock_length (s : State) (x : Reg) : ((regsUpTo x).map s.reg).length = x.val + 1 := by
  rw [List.length_map, Laws.Ops.regsUpTo_length]

/-- The block of Fx55 has `V[k]` at `I + k` (R144). -/
theorem byte_regBlock_inside (h : s.i.toNat + x.val ≤ 0xFFF) {k : Reg} (hk : k ≤ x) :
    (s.storeBytes s.i.toNat ((regsUpTo x).map s.reg)).byte (s.i.toNat + k.val) = s.reg k := by
  have hkx : k.val ≤ x.val := hk
  have hlen := regBlock_length s x
  rw [Laws.Memory.storeBytes_byte_inside s _ _ _ (by rw [memSize]; omega) (by omega)]
  apply Option.some.inj
  rw [← List.getElem?_eq_getElem, List.getElem?_map, Laws.Ops.regsUpTo_getElem x k hk]
  rfl

theorem byte_regBlock_outside {b : Nat} (hb : b < s.i.toNat ∨ s.i.toNat + x.val < b) :
    (s.storeBytes s.i.toNat ((regsUpTo x).map s.reg)).byte b = s.byte b :=
  Laws.Memory.storeBytes_byte_outside s _ b _ (by rw [regBlock_length]; omega)

/-- Digit `k` of a byte, hundreds first (R143). -/
theorem decimalDigits_toNat (v : Byte) (k : Fin 3) :
    ((decimalDigits v)[k.val]'k.isLt).toNat = v.toNat / 10 ^ (2 - k.val) % 10 := by
  have hv := v.isLt
  match k with
  | 0 => change v.toNat / 100 % 256 = v.toNat / 100 % 10; omega
  | 1 => change v.toNat / 10 % 10 % 256 = v.toNat / 10 % 10; omega
  | 2 => change v.toNat % 10 % 256 = v.toNat / 1 % 10; omega

/-- The digits of Fx33 stand at `I`, `I + 1` and `I + 2` (R143). -/
theorem byte_digits_inside (h : s.i.toNat + 2 ≤ 0xFFF) (k : Fin 3) :
    ((s.storeBytes s.i.toNat (decimalDigits (s.reg x))).byte (s.i.toNat + k.val)).toNat =
      (s.reg x).toNat / 10 ^ (2 - k.val) % 10 := by
  have hroom : s.i.toNat + (decimalDigits (s.reg x)).length ≤ memSize := by
    rw [Laws.Ops.decimalDigits_length, memSize]; omega
  rw [Laws.Memory.storeBytes_byte_inside s _ _ _ hroom k.isLt, decimalDigits_toNat]

theorem byte_digits_outside {b : Nat} (hb : b < s.i.toNat ∨ s.i.toNat + 2 < b) :
    (s.storeBytes s.i.toNat (decimalDigits (s.reg x))).byte b = s.byte b :=
  Laws.Memory.storeBytes_byte_outside s _ b _ (by rw [Laws.Ops.decimalDigits_length]; omega)

end Stores

/-- In a state with the memory of `t`, the fetch reads the bytes of `t`: nothing stands between a store and a fetch
(R60, R62). -/
theorem fetch_reads_memory {t u : State} (hmem : KeepsMemory t u) (hpc : u.pc.toNat + 1 ≤ 0xFFF) :
    ∃ op, u.fetch = .ok op ∧ op.toNat / 256 = (t.byte u.pc.toNat).toNat ∧
      op.toNat % 256 = (t.byte (u.pc.toNat + 1)).toNat := by
  obtain ⟨op, hfetch, -, hhi, hlo⟩ := fetch_bytes u hpc
  exact ⟨op, hfetch, by rw [hhi, hmem], by rw [hlo, hmem]⟩

/-- Settles O46: the fetch reads each of its two bytes where the store put it, or where nothing was stored. -/
theorem storeIsSeenByTheNextFetch : Obligations.StoreIsSeenByTheNextFetch := by
  intro x s
  constructor
  · intro hin
    refine ⟨_, exec_storeRegs_inside hin, rfl, fun _ => rfl, fun u hmem hpc => ?_⟩
    obtain ⟨op, hfetch, hhi, hlo⟩ := fetch_reads_memory hmem hpc
    rw [Laws.State.advance_byte] at hhi hlo
    refine ⟨op, hfetch, fun k hk ha => ?_, fun k hk ha => ?_, fun ha => ?_, fun ha => ?_⟩
    · rw [hhi, ha, byte_regBlock_inside hin hk]
    · rw [hlo, ha, byte_regBlock_inside hin hk]
    · rw [hhi, byte_regBlock_outside ha]
    · rw [hlo, byte_regBlock_outside ha]
  · intro hin
    refine ⟨_, exec_ldB_inside hin, rfl, fun _ => rfl, fun u hmem hpc => ?_⟩
    obtain ⟨op, hfetch, hhi, hlo⟩ := fetch_reads_memory hmem hpc
    rw [Laws.State.advance_byte] at hhi hlo
    refine ⟨op, hfetch, fun k ha => ?_, fun k ha => ?_, fun ha => ?_, fun ha => ?_⟩
    · rw [hhi, ha, byte_digits_inside hin]
    · rw [hlo, ha, byte_digits_inside hin]
    · rw [hhi, byte_digits_outside ha]
    · rw [hlo, byte_digits_outside ha]

end Sys2Proof.Proofs.StoredCode
end

section
/-! The encoding (30_encoding.md R70 to R87): the decoder and the encoder are inverse to one another, the decoder and the
opcode map select alike, and what a cycle makes of the opcode it fetched. -/

namespace Sys2Proof.Proofs.Encoding

open Sys2Proof Sys2Proof.Machine Sys2Proof.Safety Sys2Proof.Laws.Decode

/-! ### From the instruction to its opcode and back -/

/-- The two bytes of an instruction are read back, whatever follows them (R70). -/
theorem decodeBytes_encodeBytes (i : Instr) (rest : List Byte) :
    decodeBytes (encodeBytes i ++ rest) = .ok (i, rest) := by
  simp [encodeBytes, decodeBytes, StoredCode.decode_encode]

/-- Settles O1: the fields of a packed opcode are what was packed, and an opcode is its two bytes. -/
theorem decodeOfEncodeIsTheInstruction : Obligations.DecodeOfEncodeIsTheInstruction :=
  fun i rest => ⟨StoredCode.decode_encode i, decodeBytes_encodeBytes i rest⟩

/-! ### An opcode is its family and its other fields, packed (R72, R73) -/

section Unpack

variable {op : Word} {f : BitVec 4}

theorem packNNN_fields (hf : op.toNat / 4096 = f.toNat) : packNNN f (opNNN op) = op := by
  apply BitVec.eq_of_toNat_eq
  rw [toNat_packNNN, opNNN_toNat]
  omega

theorem packXKK_fields (hf : op.toNat / 4096 = f.toNat) : packXKK f (opX op) (opKK op) = op := by
  apply BitVec.eq_of_toNat_eq
  rw [toNat_packXKK, opX_val, opKK_toNat]
  omega

theorem packXYN_fields (hf : op.toNat / 4096 = f.toNat) : packXYN f (opX op) (opY op) (opN op) = op := by
  apply BitVec.eq_of_toNat_eq
  rw [toNat_packXYN, opX_val, opY_val, opN_val]
  omega

end Unpack

/-! ### The families that branch: what they decode is encoded from the same fields (R77, R79) -/

section Branches

variable {x y : Reg} {n : Fin 16} {kk : Byte} {i j : Instr}

theorem encode_of_decodeFamily0 (h : decodeFamily0 true x kk = some i) : encode i = packXKK 0x0 x kk := by
  have hx : x = 0 := by
    by_contra hx
    simp [decodeFamily0, hx] at h
  subst hx
  simp only [decodeFamily0, bne_self_eq_false, Bool.and_false, Bool.false_eq_true, if_false] at h
  split_ifs at h with hE0 hEE <;> cases h
  · rw [hE0]; rfl
  · rw [hEE]; rfl

theorem decodeLowNibble0_eq_some (h : decodeLowNibble0 true n j = some i) : n = 0 ∧ j = i := by
  simpa [decodeLowNibble0] using h

theorem encode_of_decodeFamily8 (h : decodeFamily8 x y n = some i) : encode i = packXYN 0x8 x y n := by
  unfold decodeFamily8 at h
  (repeat' split at h) <;> cases h <;> subst n <;> rfl

theorem encode_of_decodeFamilyE (h : decodeFamilyE x kk = some i) : encode i = packXKK 0xE x kk := by
  unfold decodeFamilyE at h
  (repeat' split at h) <;> cases h <;> subst kk <;> rfl

theorem encode_of_decodeFamilyF (h : decodeFamilyF x kk = some i) : encode i = packXKK 0xF x kk := by
  unfold decodeFamilyF at h
  (repeat' split at h) <;> cases h <;> subst kk <;> rfl

/-! ### What the families that branch reject (R80) -/

theorem ite_some_eq_none_iff {α : Type} {c : Prop} [Decidable c] {a : α} {o : Option α} :
    (if c then some a else o) = none ↔ ¬ c ∧ o = none := by
  split <;> simp [*]

theorem decodeFamily0_eq_none :
    decodeFamily0 true x kk = none ↔ ¬ (x.val = 0 ∧ (kk.toNat = 0xE0 ∨ kk.toNat = 0xEE)) := by
  by_cases hx : x = 0
  · simp [decodeFamily0, hx, ite_some_eq_none_iff, ← BitVec.toNat_inj]
  · have hval : x.val ≠ 0 := Fin.val_ne_of_ne hx
    simp [decodeFamily0, hx, hval]

theorem decodeLowNibble0_eq_none : decodeLowNibble0 true n j = none ↔ n.val ≠ 0 := by
  simp [decodeLowNibble0]

theorem decodeFamily8_eq_none :
    decodeFamily8 x y n = none ↔ n.val ∈ [0x8, 0x9, 0xA, 0xB, 0xC, 0xD, 0xF] := by
  simp only [decodeFamily8, ite_some_eq_none_iff]
  revert n
  decide

theorem decodeFamilyE_eq_none : decodeFamilyE x kk = none ↔ kk.toNat ∉ [0x9E, 0xA1] := by
  simp [decodeFamilyE, ite_some_eq_none_iff, ← BitVec.toNat_inj]

theorem decodeFamilyF_eq_none :
    decodeFamilyF x kk = none ↔ kk.toNat ∉ [0x07, 0x0A, 0x15, 0x18, 0x1E, 0x29, 0x33, 0x55, 0x65] := by
  simp [decodeFamilyF, ite_some_eq_none_iff, ← BitVec.toNat_inj]

end Branches

/-! ### Every family (R77, R87) -/

variable {op : Word} {i : Instr}

theorem encode_of_decode (h : decode op = some i) : encode i = op := by
  change decodeWith true op = some i at h
  rw [decodeWith, opFamily_toNat] at h
  split at h
  case h_1 hf => rw [encode_of_decodeFamily0 h, packXKK_fields hf]
  case h_2 hf | h_3 hf | h_11 hf | h_12 hf => cases h; exact packNNN_fields hf
  case h_4 hf | h_5 hf | h_7 hf | h_8 hf | h_13 hf => cases h; exact packXKK_fields hf
  case h_6 hf | h_10 hf =>
    obtain ⟨hn, rfl⟩ := decodeLowNibble0_eq_some h
    rw [encode, ← hn]
    exact packXYN_fields hf
  case h_9 hf => rw [encode_of_decodeFamily8 h, packXYN_fields hf]
  case h_14 hf => cases h; exact packXYN_fields hf
  case h_15 hf => rw [encode_of_decodeFamilyE h, packXKK_fields hf]
  case h_16 =>
    have hop := op.isLt
    have hF : op.toNat / 4096 = 0xF := by grind
    rw [encode_of_decodeFamilyF h, packXKK_fields hF]

/-- Settles O2: in every family the instruction decoded is encoded from the fields of the opcode. -/
theorem encodeOfDecodeIsTheOpcode : Obligations.EncodeOfDecodeIsTheOpcode :=
  fun _ _ h => encode_of_decode h

/-- Settles O4: the families whose every opcode decodes are none of those listed, and each other family rejects what is
listed for it. -/
theorem unknownOpcodesAreExactlyTheListed : Obligations.UnknownOpcodesAreExactlyTheListed := by
  intro op
  have hkk := opKK_toNat op
  have hn := opN_val op
  have hx := opX_val op
  change decodeWith true op = none ↔ _
  rw [decodeWith, opFamily_toNat]
  split
  case h_1 hf =>
    have hfixed : op.toNat / 256 % 16 = 0 ∧ (op.toNat % 256 = 0xE0 ∨ op.toNat % 256 = 0xEE) ↔
        op.toNat = 0xE0 ∨ op.toNat = 0xEE := by omega
    simp only [decodeFamily0_eq_none, hx, hkk, hfixed, hf]; simp
  case h_6 hf | h_10 hf => simp only [decodeLowNibble0_eq_none, hn, hf]; simp
  case h_9 hf => simp only [decodeFamily8_eq_none, hn, hf]; simp
  case h_15 hf => simp only [decodeFamilyE_eq_none, hkk, hf]; simp
  case h_16 =>
    have hop := op.isLt
    have hF : op.toNat / 4096 = 0xF := by grind
    simp only [decodeFamilyF_eq_none, hkk, hF]; simp
  all_goals exact iff_of_false (by simp) (by omega)

/-! ### The rows of the opcode map (R78) -/

theorem rowMatch (i : Instr) : Laws.RowMatch.Statement i := by
  cases i with
  | cls => exact Laws.RowMatch.cls
  | ret => exact Laws.RowMatch.ret
  | jp => exact Laws.RowMatch.jp _
  | call => exact Laws.RowMatch.call _
  | seImm => exact Laws.RowMatch.seImm _ _
  | sneImm => exact Laws.RowMatch.sneImm _ _
  | seReg => exact Laws.RowMatch.seReg _ _
  | ldImm => exact Laws.RowMatch.ldImm _ _
  | addImm => exact Laws.RowMatch.addImm _ _
  | ldReg => exact Laws.RowMatch.ldReg _ _
  | orReg => exact Laws.RowMatch.orReg _ _
  | andReg => exact Laws.RowMatch.andReg _ _
  | xorReg => exact Laws.RowMatch.xorReg _ _
  | addReg => exact Laws.RowMatch.addReg _ _
  | subReg => exact Laws.RowMatch.subReg _ _
  | shr => exact Laws.RowMatch.shr _ _
  | subnReg => exact Laws.RowMatch.subnReg _ _
  | shl => exact Laws.RowMatch.shl _ _
  | sneReg => exact Laws.RowMatch.sneReg _ _
  | ldI => exact Laws.RowMatch.ldI _
  | jpV0 => exact Laws.RowMatch.jpV0 _
  | rnd => exact Laws.RowMatch.rnd _ _
  | drw => exact Laws.RowMatch.drw _ _ _
  | skp => exact Laws.RowMatch.skp _
  | sknp => exact Laws.RowMatch.sknp _
  | ldVxDT => exact Laws.RowMatch.ldVxDT _
  | ldVxK => exact Laws.RowMatch.ldVxK _
  | ldDTVx => exact Laws.RowMatch.ldDTVx _
  | ldSTVx => exact Laws.RowMatch.ldSTVx _
  | addI => exact Laws.RowMatch.addI _
  | ldF => exact Laws.RowMatch.ldF _
  | ldB => exact Laws.RowMatch.ldB _
  | storeRegs => exact Laws.RowMatch.storeRegs _
  | loadRegs => exact Laws.RowMatch.loadRegs _

theorem selects_iff (r : OpcodeRow) (op : Word) : r.selects op = true ↔ op &&& r.mask = r.pattern := by
  simp [OpcodeRow.selects]

/-- Two rows that select one opcode agree where both masks look. -/
theorem patterns_agree {a b : OpcodeRow} (ha : a.selects op = true) (hb : b.selects op = true) :
    a.pattern &&& b.mask = b.pattern &&& a.mask := by
  rw [selects_iff] at ha hb
  rw [← ha, ← hb]
  rw [BitVec.and_assoc, BitVec.and_assoc, BitVec.and_comm a.mask]

/-- No two rows of the map agree where both masks look. -/
theorem opcodeRows_apart :
    ∀ a ∈ opcodeRows, ∀ b ∈ opcodeRows, a.pattern &&& b.mask = b.pattern &&& a.mask → a = b := by
  decide

/-- What the row masks leave of an opcode, as numbers. -/
theorem familyMask_toNat (op : Word) : (op &&& 0xF000).toNat = op.toNat / 4096 * 4096 := by
  have hpack := packNNN_fields (f := opFamily op) (opFamily_toNat op).symm
  rw [← congrArg (· &&& 0xF000) hpack, mask_packNNN, toNat_packNNN, opFamily_toNat]
  simp

theorem nibbleMask_toNat (op : Word) : (op &&& 0xF00F).toNat = op.toNat / 4096 * 4096 + op.toNat % 16 := by
  have hpack := packXYN_fields (f := opFamily op) (opFamily_toNat op).symm
  rw [← congrArg (· &&& 0xF00F) hpack, lowMask_packXYN, toNat_packXYN, opFamily_toNat, opN_val]
  simp

theorem byteMask_toNat (op : Word) : (op &&& 0xF0FF).toNat = op.toNat / 4096 * 4096 + op.toNat % 256 := by
  have hpack := packXKK_fields (f := opFamily op) (opFamily_toNat op).symm
  rw [← congrArg (· &&& 0xF0FF) hpack, lowMask_packXKK, toNat_packXKK, opFamily_toNat, opKK_toNat]
  simp

/-- The rows of the map by their masks: a whole family, a family and a low nibble, a family and a low byte, or one
opcode (R73, R78). -/
theorem opcodeRows_shape :
    ∀ a ∈ opcodeRows,
      (a.mask = 0xF000 ∧ a.pattern.toNat / 4096 ∉ [0x0, 0x5, 0x8, 0x9, 0xE, 0xF]) ∨
      (a.mask = 0xF00F ∧ (a.pattern.toNat = 0x5000 ∨ a.pattern.toNat = 0x9000 ∨
        a.pattern.toNat / 4096 = 0x8 ∧ a.pattern.toNat % 16 ∉ [0x8, 0x9, 0xA, 0xB, 0xC, 0xD, 0xF])) ∨
      (a.mask = 0xF0FF ∧ (a.pattern.toNat / 4096 = 0xE ∧ a.pattern.toNat % 256 ∈ [0x9E, 0xA1] ∨
        a.pattern.toNat / 4096 = 0xF ∧
          a.pattern.toNat % 256 ∈ [0x07, 0x0A, 0x15, 0x18, 0x1E, 0x29, 0x33, 0x55, 0x65])) ∨
      (a.mask = 0xFFFF ∧ (a.pattern = 0x00E0 ∨ a.pattern = 0x00EE)) := by
  decide

/-- An opcode that a row selects is none of the unknown ones: it agrees with the row's pattern where the mask looks. -/
theorem decode_ne_none_of_selects {a : OpcodeRow} (ha : a ∈ opcodeRows) (hsel : a.selects op = true) :
    decode op ≠ none := by
  rw [selects_iff] at hsel
  rw [Ne, unknownOpcodesAreExactlyTheListed op]
  obtain ⟨hm, hp⟩ | ⟨hm, hp⟩ | ⟨hm, hp⟩ | ⟨hm, hp⟩ := opcodeRows_shape a ha <;> rw [hm] at hsel
  · rw [← hsel, familyMask_toNat, Nat.mul_div_cancel _ (by decide)] at hp
    simp only [List.mem_cons, List.not_mem_nil, or_false, not_or] at hp
    omega
  · have hfam : (op.toNat / 4096 * 4096 + op.toNat % 16) / 4096 = op.toNat / 4096 := by omega
    have hlow : (op.toNat / 4096 * 4096 + op.toNat % 16) % 16 = op.toNat % 16 := by omega
    rw [← hsel, nibbleMask_toNat, hfam, hlow] at hp
    simp only [List.mem_cons, List.not_mem_nil, or_false, not_or] at hp ⊢
    omega
  · have hfam : (op.toNat / 4096 * 4096 + op.toNat % 256) / 4096 = op.toNat / 4096 := by omega
    have hlow : (op.toNat / 4096 * 4096 + op.toNat % 256) % 256 = op.toNat % 256 := by omega
    rw [← hsel, byteMask_toNat, hfam, hlow] at hp
    obtain ⟨hE, hlist⟩ | ⟨hF, hlist⟩ := hp
    · simp [hE, hlist]
    · simp [hF, hlist]
  · rw [show (0xFFFF : Word) = BitVec.allOnes 16 from rfl, BitVec.and_allOnes] at hsel
    rw [hsel]
    obtain hp | hp := hp <;> rw [hp] <;> decide

/-- Settles O3: two rows that select one opcode agree where both masks look, and no two rows of the map do; an opcode
that decodes is the one encoded, which its own row selects. -/
theorem decodeSelectsTheUniqueRow : Obligations.DecodeSelectsTheUniqueRow := by
  refine fun op => ⟨fun a ha b hb hsa hsb => ?_, fun i hi => ?_, fun hnone a ha => ?_⟩
  · exact opcodeRows_apart a ha b hb (patterns_agree hsa hsb)
  · obtain ⟨hsel, hmem⟩ := rowMatch i
    rw [encode_of_decode hi] at hsel
    exact ⟨hmem, hsel⟩
  · exact Bool.eq_false_iff.mpr fun hsel => decode_ne_none_of_selects ha hsel hnone

/-! ### The errors of an instruction (60_exceptions.md R203 to R205) -/

theorem checkLast_fault {last : Nat} {s : State} {go : Result} {f : Fault} (h : checkLast last s go = .fault f) :
    f = .addressOutOfRange 0x1000 s.pc ∨ go = .fault f := by
  unfold checkLast at h
  split at h
  · cases h; exact .inl rfl
  · exact .inr h

/-- No instruction reports an unknown opcode: that is the decoder's (R202). -/
theorem exec_ne_unknownOpcode (i : Instr) (s : State) (w p : Word) : exec i s ≠ .fault (.unknownOpcode w p) := by
  intro h
  cases i with
  | ret =>
    change execRet s = _ at h
    unfold execRet at h
    split at h <;> cases h
  | call nnn =>
    change execCall nnn s = _ at h
    unfold execCall at h
    split at h <;> cases h
  | addI x =>
    by_cases hsum : s.i.toNat + (s.reg x).toNat ≤ 0xFFF
    · cases (Laws.Ops.addToIndex_inside x s hsum).symm.trans h
    · cases (Laws.Ops.addToIndex_outside x s (by omega)).symm.trans h
  | skp x | sknp x =>
    obtain ⟨-, hk⟩ | ⟨k, -, hk⟩ := Laws.Ops.skipOnKey_cases x _ s <;> cases hk.symm.trans h
  | ldVxK x =>
    obtain ⟨-, hk⟩ | ⟨k, -, -, hk⟩ := Laws.Ops.waitKey_cases x s <;> cases hk.symm.trans h
  | drw x y n =>
    change drawSprite params x y n s = _ at h
    unfold drawSprite at h
    split at h <;> cases h
  | ldB | storeRegs | loadRegs => obtain hf | hf := checkLast_fault h <;> cases hf
  | _ => cases h

/-! ### The cycle (R85 to R88) -/

/-- Settles O10: a cycle that fetched can report the unknown opcode only for want of an instruction. -/
theorem unknownOpcodeIsReported : Obligations.UnknownOpcodeIsReported := by
  refine fun s op hfetch => ⟨fun h => ?_, fun hnone => by simp [step, hfetch, hnone, raise]⟩
  obtain herr | ⟨w, -, hnone, hf⟩ | ⟨w, i, -, -, hexec⟩ := Laws.Step.step_fault h
  · cases hfetch.symm.trans herr
  · cases hf; exact hnone
  · exact absurd hexec (exec_ne_unknownOpcode i s op s.pc)

theorem tick_keepsButTimers (s : State) : KeepsButTimers s s.tick :=
  ⟨rfl, fun _ => rfl, rfl, ⟨rfl, fun _ => rfl⟩, fun _ => rfl, fun _ _ => rfl, fun _ => rfl, rfl⟩

/-- Settles O6: the fetch gives the two bytes, and the cycle is the instruction they decode to, then the tick. -/
theorem stepRunsTheDecodedInstruction : Obligations.StepRunsTheDecodedInstruction := by
  intro s i hpc hdecode
  have hstep := Laws.Step.step_decoded (Laws.Ops.fetch_inside s (by omega)) hdecode
  refine ⟨fun t ht => ⟨t.tick, ?_, Laws.Ops.tickTimer_toNat _, Laws.Ops.tickTimer_toNat _, tick_keepsButTimers t⟩,
    fun f hf => ?_, fun r hr => ?_⟩
  · rw [hstep, ht]; rfl
  · rw [hstep, hf]; rfl
  · rw [hstep, hr]; rfl

/-- Settles O9: the fetch's error is the cycle's, and its address is the greater of `PC` and 0x1000. -/
theorem fetchOutsideMemoryIsReported : Obligations.FetchOutsideMemoryIsReported := by
  intro s hpc
  have haddr : (if s.pc.toNat < 0x1000 then 0x1000 else s.pc) = BitVec.ofNat 16 (max s.pc.toNat 0x1000) := by
    split
    · next hlt => rw [max_eq_right hlt.le]; rfl
    · next hge => rw [max_eq_left (not_lt.mp hge), BitVec.ofNat_toNat, BitVec.setWidth_eq]
  rw [← haddr]
  simp [step, Laws.Ops.fetch_outside s (by omega), raise]

end Sys2Proof.Proofs.Encoding
end

section
/-! The operations that write a result and a flag (41_register_arithmetic.md R121, R130, R131). -/

namespace Sys2Proof.Proofs.FlagOps

open Sys2Proof Sys2Proof.Machine Sys2Proof.Safety

/-- The two writes and the advance, as the statements about the flag operations put it (R121; log entry 4). -/
theorem writeRegFlag_writesRegFlag {x : Reg} {r : Byte} {f : Bool} {v : Nat} {c : Prop} (s : State)
    (hv : r.toNat = v) (hf : f = true ↔ c) : WritesRegFlag x v c s (writeRegFlag params x r f s) := by
  have hreg (y : Reg) := Laws.Registers.reg_setResultFlag s x y r f
  refine ⟨_, rfl, fun hx => ?_, fun hc => ?_, fun hc => ?_, rfl, fun y hy => ?_, ?_⟩
  · rw [Laws.State.advance_reg, hreg, if_neg hx, if_pos rfl, hv]
  · rw [Laws.State.advance_reg, hreg, if_pos rfl, hf.mpr hc]; rfl
  · rw [Laws.State.advance_reg, hreg, if_pos rfl, Bool.eq_false_iff.mpr (mt hf.mp hc)]; rfl
  · rw [not_or] at hy
    rw [Laws.State.advance_reg, hreg, if_neg hy.2, if_neg hy.1]
  · exact ⟨rfl, ⟨rfl, fun _ => rfl⟩, ⟨rfl, rfl⟩, fun _ => rfl, fun _ _ => rfl, fun _ => rfl, rfl⟩

theorem shiftRight_toNat (b : Byte) : (b >>> 1).toNat = b.toNat / 2 := by
  rw [BitVec.toNat_ushiftRight, Nat.shiftRight_eq_div_pow]

theorem shiftLeft_toNat (b : Byte) : (b <<< 1).toNat = b.toNat * 2 % 256 := by
  rw [BitVec.toNat_shiftLeft, Nat.shiftLeft_eq]

/-- Settles O35: the register shifted is `V[x]` whatever `y` is (log entry 5), and the flag is the bit shifted out. -/
theorem shiftsByOne : Obligations.ShiftsByOne := fun x _ s =>
  ⟨writeRegFlag_writesRegFlag s (shiftRight_toNat (s.reg x)) (Laws.Ops.shiftedOutRight_iff (s.reg x)),
    writeRegFlag_writesRegFlag s (shiftLeft_toNat (s.reg x)) (Laws.Ops.shiftedOutLeft_iff (s.reg x)),
    fun _ => ⟨rfl, rfl⟩⟩

end Sys2Proof.Proofs.FlagOps
end

section
/-! The control-flow instructions (40_control_flow.md R100 to R109) and the jump to itself that ends a run
(70_reset_and_hazards.md R256). -/

namespace Sys2Proof.Proofs.ControlFlow

open Sys2Proof Sys2Proof.Machine Sys2Proof.Safety

/-! ### CLS and the jumps (R101, R103, R109) -/

theorem setPc_keepsButPc (s : State) (a : Word) : KeepsButPc s (s.setPc a) :=
  ⟨fun _ => rfl, rfl, ⟨rfl, fun _ => rfl⟩, ⟨rfl, rfl⟩, fun _ => rfl, fun _ _ => rfl, fun _ => rfl, rfl⟩

/-- The sum of Bnnn fits the 16 bits of `PC` (R109). -/
theorem jpV0_target_toNat (nnn : Addr12) (b : Byte) :
    (absolute nnn + zextByte b).toNat = nnn.toNat + b.toNat := by
  have hn := nnn.isLt
  have hb := b.isLt
  rw [BitVec.toNat_add, Laws.Ops.absolute_toNat, Laws.Ops.zextByte_toNat, Nat.mod_eq_of_lt (by omega)]

/-- Settles O23: the new framebuffer is the cleared one, and only it and `PC` are written. -/
theorem clearScreenClearsEveryCell : Obligations.ClearScreenClearsEveryCell := fun _ =>
  ⟨_, rfl, Laws.Registers.cell_clear, rfl,
    fun _ => rfl, rfl, ⟨rfl, fun _ => rfl⟩, ⟨rfl, rfl⟩, fun _ => rfl, fun _ => rfl, rfl⟩

/-- Settles O24: the address operand is zero-extended into `PC`. -/
theorem jumpSetsPc : Obligations.JumpSetsPc := fun nnn s =>
  ⟨_, rfl, Laws.Ops.absolute_toNat nnn, setPc_keepsButPc s _⟩

/-- Settles O30: the sum is at most 0xFFF + 0xFF, so it does not wrap. -/
theorem indexedJumpAddsV0 : Obligations.IndexedJumpAddsV0 := fun nnn s =>
  ⟨_, rfl, jpV0_target_toNat nnn (s.reg V0), setPc_keepsButPc s _⟩

/-! ### The skips (R105 to R108) -/

/-- A skip, as the statements about the skips put it (R100). -/
theorem skipIf_skipsWhen {c : Bool} {p : Prop} (s : State) (hc : c = true ↔ p) :
    SkipsWhen p s (.next (s.skipIf c)) := by
  refine ⟨_, rfl, fun hp => ?_, fun hp => ?_, setPc_keepsButPc s _⟩
  · rw [Laws.State.skipIf_pc, if_pos (hc.mpr hp)]
  · rw [Laws.State.skipIf_pc, if_neg (mt hc.mp hp)]

theorem skipIf_beq_skipsWhen (s : State) (a b : Byte) :
    SkipsWhen (a.toNat = b.toNat) s (.next (s.skipIf (a == b))) :=
  skipIf_skipsWhen s (by rw [beq_iff_eq, BitVec.toNat_inj])

theorem skipIf_bne_skipsWhen (s : State) (a b : Byte) :
    SkipsWhen (a.toNat ≠ b.toNat) s (.next (s.skipIf (a != b))) :=
  skipIf_skipsWhen s (by rw [bne_iff_ne, Ne, Ne, BitVec.toNat_inj])

/-- Settles O28: the two skips compare `V[x]` with the immediate. -/
theorem skipOnImmediate : Obligations.SkipOnImmediate := fun x kk s =>
  ⟨skipIf_beq_skipsWhen s (s.reg x) kk, skipIf_bne_skipsWhen s (s.reg x) kk⟩

/-- Settles O29: the two skips compare `V[x]` with `V[y]`. -/
theorem skipOnRegisters : Obligations.SkipOnRegisters := fun x y s =>
  ⟨skipIf_beq_skipsWhen s (s.reg x) (s.reg y), skipIf_bne_skipsWhen s (s.reg x) (s.reg y)⟩

/-! ### CALL and RET (R102, R104) -/

theorem exec_call_of_push {s t : State} (nnn : Addr12) (h : s.push (s.pc + 2) = some t) :
    exec (.call nnn) s = .next (t.setPc (absolute nnn)) := by
  change execCall nnn s = _
  rw [execCall, h]

theorem exec_ret_of_pop {s t : State} {a : Word} (h : s.pop = some (a, t)) :
    exec .ret s = .next (t.setPc a) := by
  change execRet s = _
  rw [execRet, h]

theorem exec_ret_empty {s : State} (h : s.sp.val = 0) : exec .ret s = .fault (.stackUnderflow s.pc) := by
  change execRet s = _
  rw [execRet, (Laws.Ops.pop_eq_none s).mpr h]
  rfl

/-- New slots, a new depth and a new `PC` are no other piece of state. -/
theorem stackUpdate_keepsButStack (s : State) (stack : Vector Word 16) (p : Fin 17) (a : Word) :
    KeepsButStack s (({ s with stack := stack, sp := p } : State).setPc a) :=
  ⟨fun _ => rfl, rfl, ⟨rfl, rfl⟩, fun _ => rfl, fun _ _ => rfl, fun _ => rfl, rfl⟩

/-- Settles O25: below depth 16 the push succeeds, and it writes `P + 2` to slot `SP` alone. -/
theorem callPushesTheReturnAddress : Obligations.CallPushesTheReturnAddress := by
  intro nnn s j hsp
  obtain ⟨t, hpush⟩ := Laws.Ops.push_isSome s (s.pc + 2) (hsp ▸ j.isLt)
  obtain ⟨-, hdepth, hslot, ht⟩ := Laws.Ops.push_eq_some hpush
  refine ⟨_, exec_call_of_push nnn hpush, ?_, fun k hk => ?_, ?_, Laws.Ops.absolute_toNat nnn, ?_⟩
  · rw [Laws.State.setPc_slot, hslot, if_pos hsp.symm]
  · rw [Laws.State.setPc_slot, hslot, if_neg (hsp ▸ Fin.val_ne_of_ne hk)]
  · rw [Laws.State.setPc_sp, hdepth, hsp]
  · rw [ht]
    exact stackUpdate_keepsButStack s _ _ _

/-- Settles O26: the pop answers slot `SP - 1` and lowers the depth alone; on an empty stack there is nothing to pop. -/
theorem returnRestoresThePoppedSlot : Obligations.ReturnRestoresThePoppedSlot := by
  refine ⟨fun s j hsp => ?_, fun s hsp => ⟨s.pc, exec_ret_empty hsp⟩⟩
  obtain ⟨a, t, hpop⟩ := Laws.Ops.pop_isSome s (by omega)
  obtain ⟨-, hdepth, hslot, ht⟩ := Laws.Ops.pop_eq_some hpop
  refine ⟨_, exec_ret_of_pop hpop, hslot j hsp.symm, ?_, ?_, ?_⟩
  · rw [Laws.State.setPc_sp]
    omega
  · rw [ht]
    exact fun _ => rfl
  · rw [ht]
    exact stackUpdate_keepsButStack s s.stack _ _

/-- Settles O27: RET pops the slot that CALL wrote. -/
theorem callThenReturnRoundTrip : Obligations.CallThenReturnRoundTrip := by
  intro nnn s hsp
  obtain ⟨t, hcall, hpushed, -, hdepth, -⟩ := callPushesTheReturnAddress nnn s ⟨s.sp.val, hsp⟩ rfl
  refine ⟨t, hcall, fun u husp huslot => ?_⟩
  obtain ⟨w, hret, hpc, hpopped, -⟩ := returnRestoresThePoppedSlot.1 u ⟨s.sp.val, hsp⟩ (husp ▸ hdepth)
  exact ⟨w, hret, by rw [hpc, huslot, hpushed], Fin.ext hpopped⟩

/-! ### The jump to itself (R256, D25; log entry 34) -/

/-- A run whose first cycle completes goes on from where that cycle ended (R221). -/
theorem runWithKeys_cons {k : Keys} {ks : List Keys} {s t : State} (h : stepWithKeys k s = .next t) :
    runWithKeys (k :: ks) s = runWithKeys ks t := by
  rw [runWithKeys, h]

theorem setPc_self {s : State} {a : Word} (h : s.pc = a) : s.setPc a = s := by
  rw [← h]
  rfl

/-- A cycle at a jump to itself sets the keys and ticks the timers, and does nothing else. -/
theorem stepWithKeys_of_atSelfJump {s : State} (k : Keys) (h : AtSelfJump s) :
    stepWithKeys k s = .next (s.setKeys k).tick := by
  obtain ⟨nnn, hpc, hfetch⟩ := h
  have hfetch' : (s.setKeys k).fetch = .ok (encode (.jp nnn)) := hfetch
  have hjump : exec (.jp nnn) (s.setKeys k) = .next (s.setKeys k) :=
    congrArg Host.Outcome.next (setPc_self hpc)
  rw [stepWithKeys, Laws.Step.step_decoded hfetch' (StoredCode.decode_encode (.jp nnn)), hjump]
  rfl

/-- Neither the keys nor the timers are read by the fetch. -/
theorem atSelfJump_setKeys_tick {s : State} (k : Keys) (h : AtSelfJump s) : AtSelfJump (s.setKeys k).tick := h

/-- Settles O54, by induction on the key inputs: each cycle sets the keys, ticks, and stays at the jump. -/
theorem selfJumpHoldsForEver : Obligations.SelfJumpHoldsForEver := by
  intro s ks
  induction ks generalizing s with
  | nil =>
    exact fun h => ⟨s, rfl, rfl, h, fun _ => rfl, rfl, ⟨rfl, fun _ => rfl⟩, fun _ => rfl, fun _ _ => rfl, rfl, rfl,
      rfl⟩
  | cons k ks ih =>
    intro h
    obtain ⟨t, hrun, hpc, hself, hregs, hindex, hstack, hmem, hscreen, hdraws, hdt, hst⟩ :=
      ih _ (atSelfJump_setKeys_tick k h)
    refine ⟨t, (runWithKeys_cons (stepWithKeys_of_atSelfJump k h)).trans hrun, hpc, hself, hregs, hindex, hstack, hmem,
      hscreen, hdraws, ?_, ?_⟩
    · rw [hdt, Laws.State.tick_dt, Laws.Ops.tickTimer_toNat, Laws.State.setKeys_dt, List.length_cons]
      omega
    · rw [hst, Laws.State.tick_st, Laws.Ops.tickTimer_toNat, Laws.State.setKeys_st, List.length_cons]
      omega

end Sys2Proof.Proofs.ControlFlow
end

section
/-! The register loads and the register arithmetic (41_register_arithmetic.md R120 to R134): one law for the writes
without a flag, one for the writes with a flag, and the values and flags in numbers. -/

namespace Sys2Proof.Proofs.RegisterArithmetic

open Sys2Proof Sys2Proof.Machine Sys2Proof.Safety

/-! ### One register written: 6xkk, 7xkk, 8xy0 to 8xy3 and Cxkk (R122 to R126, R132, R133) -/

/-- The write and the advance, as the statements about the loads put it (R20). -/
theorem writeReg_writesReg (x : Reg) (b : Byte) (s : State) : WritesReg x b s (writeReg x b s) :=
  ⟨_, rfl, Laws.Registers.reg_setReg_same s x b, rfl, fun _ hy => Laws.Registers.reg_setReg_other s b hy,
    rfl, ⟨rfl, fun _ => rfl⟩, ⟨rfl, rfl⟩, fun _ => rfl, fun _ _ => rfl, fun _ => rfl, rfl⟩

/-- Settles O31: each of the five is a register write with no flag. -/
theorem loadsAndBitwiseOperations : Obligations.LoadsAndBitwiseOperations := fun x y kk s =>
  ⟨writeReg_writesReg x kk s, writeReg_writesReg x (s.reg y) s, writeReg_writesReg x (s.reg x ||| s.reg y) s,
    writeReg_writesReg x (s.reg x &&& s.reg y) s, writeReg_writesReg x (s.reg x ^^^ s.reg y) s⟩

/-- Settles O32: the sum of bytes wraps at 256 (R120), and the write has no flag. -/
theorem addImmediateWraps : Obligations.AddImmediateWraps := by
  intro x kk s
  have hsum : BitVec.ofNat 8 (((s.reg x).toNat + kk.toNat) % 256) = s.reg x + kk := by
    refine BitVec.eq_of_toNat_eq ?_
    rw [BitVec.toNat_ofNat, BitVec.toNat_add, Nat.mod_mod]
  rw [hsum]
  exact writeReg_writesReg x (s.reg x + kk) s

/-- Settles O38: the draw is read from the count before it, whatever byte it gives (R134; log entry 16). -/
theorem randomByteUnderTheMask : Obligations.RandomByteUnderTheMask := fun x kk s =>
  ⟨_, rfl, Laws.Registers.reg_setReg_same s x (s.rand &&& kk), rfl, rfl,
    fun _ hy => Laws.Registers.reg_setReg_other s (s.rand &&& kk) hy,
    rfl, ⟨rfl, fun _ => rfl⟩, ⟨rfl, rfl⟩, fun _ => rfl, fun _ _ => rfl, fun _ => rfl⟩

/-! ### A result and a flag: 8xy4, 8xy5 and 8xy7 (R127 to R129) -/

/-- Settles O33: the 8-bit sum, and the carry out of it. -/
theorem addRegistersWithCarry : Obligations.AddRegistersWithCarry := fun x y s _ =>
  FlagOps.writeRegFlag_writesRegFlag s (BitVec.toNat_add (s.reg x) (s.reg y))
    (Laws.Ops.carryFlag_iff (s.reg x) (s.reg y))

theorem sub_toNat (a b : Byte) : (a - b).toNat = (a.toNat + 256 - b.toNat) % 256 := by
  have hb := b.isLt
  rw [BitVec.toNat_sub]
  omega

/-- Settles O34: 8xy5 and 8xy7 are one subtraction with the operands exchanged (log entry 3). -/
theorem subtractBothWays : Obligations.SubtractBothWays := fun x y s =>
  ⟨FlagOps.writeRegFlag_writesRegFlag s (sub_toNat (s.reg x) (s.reg y))
      (Laws.Ops.noBorrowFlag_iff (s.reg x) (s.reg y)),
    FlagOps.writeRegFlag_writesRegFlag s (sub_toNat (s.reg y) (s.reg x))
      (Laws.Ops.noBorrowFlag_iff (s.reg y) (s.reg x))⟩

/-! ### The destination is `VF` (R121; log entry 4) -/

/-- The flag, written last, overwrites the result: what is left is one write of `VF`. -/
theorem writeRegFlag_VF (r : Byte) (f : Bool) (s : State) :
    writeRegFlag params VF r f s = writeReg VF (flagByte f) s := by
  have hset : (s.setReg VF r).setReg VF (flagByte f) = s.setReg VF (flagByte f) := by
    simp only [State.setReg, Vector.set_set]
  exact congrArg (fun t => Host.Outcome.next t.advance) hset

theorem writeRegFlag_VF_writesReg {f : Bool} {b : Byte} (r : Byte) (s : State) (hb : flagByte f = b) :
    WritesReg VF b s (writeRegFlag params VF r f s) := by
  rw [writeRegFlag_VF, hb]
  exact writeReg_writesReg VF b s

theorem flagByte_eq_ite {f : Bool} {c : Prop} [Decidable c] (hf : f = true ↔ c) :
    flagByte f = if c then 1 else 0 := by
  simp only [flagByte, hf]

/-- A flag that is a bit has the value of the bit (R130, R131). -/
theorem flagByte_eq_ofNat {f : Bool} {n : Nat} (hn : n < 2) (hf : f = true ↔ n = 1) :
    flagByte f = BitVec.ofNat 8 n := by
  rw [flagByte_eq_ite hf]
  obtain rfl | rfl : n = 0 ∨ n = 1 := by omega
  · rfl
  · rfl

/-- Settles O36: with `x` = 15 each of the five is one write of its flag to `VF`. -/
theorem flagWinsWhenTheDestinationIsVF : Obligations.FlagWinsWhenTheDestinationIsVF := by
  intro y s
  have hhigh : (s.reg VF).toNat / 128 < 2 := by
    have hlt := (s.reg VF).isLt
    omega
  refine ⟨?add, ?sub, ?subn, ?shr, ?shl⟩
  case add => exact writeRegFlag_VF_writesReg _ s (flagByte_eq_ite (Laws.Ops.carryFlag_iff _ _))
  case sub => exact writeRegFlag_VF_writesReg _ s (flagByte_eq_ite (Laws.Ops.noBorrowFlag_iff _ _))
  case subn => exact writeRegFlag_VF_writesReg _ s (flagByte_eq_ite (Laws.Ops.noBorrowFlag_iff _ _))
  case shr =>
    exact writeRegFlag_VF_writesReg _ s
      (flagByte_eq_ofNat (Nat.mod_lt _ Nat.two_pos) (Laws.Ops.shiftedOutRight_iff (s.reg VF)))
  case shl =>
    exact writeRegFlag_VF_writesReg _ s (flagByte_eq_ofNat hhigh (Laws.Ops.shiftedOutLeft_iff (s.reg VF)))

end Sys2Proof.Proofs.RegisterArithmetic
end

section
/-! The index register and the block accesses through it (42_memory_index.md R140 to R147): the new `I` as a number,
and what the stores of Fx33 and Fx55 and the load of Fx65 leave in memory and in the registers. -/

namespace Sys2Proof.Proofs.MemoryIndex

open Sys2Proof Sys2Proof.Machine Sys2Proof.Safety

/-! ### `I` written: Annn, Fx1E and Fx29 (R140 to R142) -/

theorem setI_advance_keepsButI (s : State) (a : Word) : KeepsButI s (s.setI a).advance :=
  ⟨fun _ => rfl, ⟨rfl, fun _ => rfl⟩, ⟨rfl, rfl⟩, fun _ => rfl, fun _ _ => rfl, fun _ => rfl, rfl⟩

/-- A sum that passes the check of Fx1E does not wrap (R141). -/
theorem indexSum_toNat {a : Word} {b : Byte} (h : a.toNat + b.toNat ≤ 0xFFF) :
    (a + zextByte b).toNat = a.toNat + b.toNat := by
  rw [BitVec.toNat_add, Laws.Ops.zextByte_toNat]
  omega

/-- The mask of Fx29 is the remainder by 16, and five times it stays far below 2 ^ 16 (R142; log entry 8). -/
theorem glyphAddress_lowNibble_toNat (b : Byte) : (glyphAddress (b &&& 0x0F).toNat).toNat = 5 * (b.toNat % 16) := by
  have hmask : (b &&& 0x0F).toNat = b.toNat % 16 := by
    rw [BitVec.toNat_and]
    exact Nat.and_two_pow_sub_one_eq_mod b.toNat 4
  rw [glyphAddress, hmask, BitVec.toNat_ofNat]
  omega

/-- Settles O39: the operand is zero-extended into `I`. -/
theorem setIndexLoadsTheAddress : Obligations.SetIndexLoadsTheAddress := fun nnn s =>
  ⟨_, rfl, Laws.Ops.absolute_toNat nnn, rfl, setI_advance_keepsButI s _⟩

/-- Settles O40: the check at the add decides between the sum, which then fits, and the error (log entry 11). -/
theorem addToIndexChecksTheSum : Obligations.AddToIndexChecksTheSum := fun x s =>
  ⟨fun hin => ⟨_, Laws.Ops.addToIndex_inside x s hin, indexSum_toNat hin, rfl, setI_advance_keepsButI s _⟩,
    fun hout => Laws.Ops.addToIndex_outside x s hout⟩

/-- Settles O41: the glyph of the low nibble, at five bytes a glyph. -/
theorem glyphAddressFromTheLowNibble : Obligations.GlyphAddressFromTheLowNibble := fun x s =>
  ⟨_, Laws.Ops.pointAtGlyph_next x s, glyphAddress_lowNibble_toNat (s.reg x), rfl, setI_advance_keepsButI s _⟩

/-! ### Memory written: Fx33 and Fx55 (R143, R144) -/

theorem storeBytes_advance_keepsButMemory (s : State) (a : Nat) (bs : List Byte) :
    KeepsButMemory s (s.storeBytes a bs).advance := StoredCode.storeBytes_keepsButMemory s a bs

/-- Settles O42: the digits read back one by one, and a byte is below 1000, so its hundreds need no remainder. -/
theorem decimalDigitsAreStored : Obligations.DecimalDigitsAreStored := by
  intro x s
  refine ⟨fun hin => ?_, fun hout => Laws.Ops.checkLast_outside s _ hout⟩
  have hdigit := StoredCode.byte_digits_inside (x := x) hin
  have hhundreds : (s.reg x).toNat / 100 % 10 = (s.reg x).toNat / 100 := by
    have hlt := (s.reg x).isLt
    omega
  have hunits : (s.reg x).toNat / 1 % 10 = (s.reg x).toNat % 10 := by rw [Nat.div_one]
  exact ⟨_, StoredCode.exec_ldB_inside hin, (hdigit 0).trans hhundreds, hdigit 1, (hdigit 2).trans hunits,
    fun _ hb => StoredCode.byte_digits_outside hb, rfl, storeBytes_advance_keepsButMemory s _ _⟩

/-- Settles O43: the block reads back register by register. -/
theorem blockStoreCopiesTheRegisters : Obligations.BlockStoreCopiesTheRegisters := fun _ s =>
  ⟨fun hin => ⟨_, StoredCode.exec_storeRegs_inside hin, fun _ hr => StoredCode.byte_regBlock_inside hin hr,
      fun _ hb => StoredCode.byte_regBlock_outside hb, rfl, storeBytes_advance_keepsButMemory s _ _⟩,
    fun hout => Laws.Ops.checkLast_outside s _ hout⟩

/-! ### Registers loaded: Fx65 (R145) -/

/-- Fx65 that stays inside memory loads its block and advances (R145). -/
theorem exec_loadRegs_inside {s : State} {x : Reg} (h : s.i.toNat + x.val ≤ 0xFFF) :
    exec (.loadRegs x) s = .next (s.setV (loadList s.mem s.i.toNat (regsUpTo x) s.v)).advance :=
  Laws.Ops.checkLast_inside s _ h

/-- A register after the block load: the byte at `I + r` up to `V[x]`, its old value above (R145). -/
theorem reg_loadBlock (s : State) (x r : Reg) :
    (s.setV (loadList s.mem s.i.toNat (regsUpTo x) s.v)).reg r =
      if r ≤ x then s.byte (s.i.toNat + r.val) else s.reg r := by
  have hload := Laws.Registers.getElem_loadList s.mem s.i.toNat (regsUpTo x) s.v r
  simp only [Laws.Registers.mem_regsUpTo] at hload
  exact hload

theorem setV_advance_keepsButRegs (s : State) (v : Vector Byte 16) : KeepsButRegs s (s.setV v).advance :=
  ⟨rfl, ⟨rfl, fun _ => rfl⟩, ⟨rfl, rfl⟩, fun _ => rfl, fun _ _ => rfl, fun _ => rfl, rfl⟩

/-- Settles O44: the registers up to `V[x]` are loaded, those above are not. -/
theorem blockLoadFillsTheRegisters : Obligations.BlockLoadFillsTheRegisters := fun x s =>
  ⟨fun hin => ⟨_, exec_loadRegs_inside hin, fun r hr => (reg_loadBlock s x r).trans (if_pos hr),
      fun r hr => (reg_loadBlock s x r).trans (if_neg hr), rfl, setV_advance_keepsButRegs s _⟩,
    fun hout => Laws.Ops.checkLast_outside s _ hout⟩

/-- Settles O45: the store keeps `I` (R146; log entry 20), so the load reads the very cells that were stored. -/
theorem blockStoreThenLoadRestores : Obligations.BlockStoreThenLoadRestores := by
  intro x s hin
  obtain ⟨t, hstore, hbytes, -, -, -, hkeepsI, -⟩ := (blockStoreCopiesTheRegisters x s).1 hin
  refine ⟨t, hstore, fun u hui hmem => ?_⟩
  have hi : u.i = s.i := hui.trans hkeepsI
  obtain ⟨w, hload, hregs, -⟩ := (blockLoadFillsTheRegisters x u).1 (by rwa [hi])
  refine ⟨w, hload, fun r hr => ?_⟩
  calc w.reg r = u.byte (s.i.toNat + r.val) := by rw [hregs r hr, hi]
    _ = t.byte (s.i.toNat + r.val) := hmem _
    _ = s.reg r := hbytes r hr

end Sys2Proof.Proofs.MemoryIndex
end

section
/-! The timer moves (43_timers.md R150 to R153): what Fx07, Fx15 and Fx18 leave before and after the tick of their cycle,
and the delay timer read back in the next cycle. -/

namespace Sys2Proof.Proofs.Timers

open Sys2Proof Sys2Proof.Machine Sys2Proof.Safety

/-- New timers and the advance of `PC` are no other piece of state. -/
theorem timersUpdate_keepsButPcTimers (s : State) (dt st : Byte) :
    KeepsButPcTimers s ({ s with dt := dt, st := st } : State).advance :=
  ⟨fun _ => rfl, rfl, ⟨rfl, fun _ => rfl⟩, fun _ => rfl, fun _ _ => rfl, fun _ => rfl, rfl⟩

/-- Settles O47: Fx07 is a register write, Fx15 and Fx18 write one timer each, and the tick then lowers the timer by
one, down to zero (R153). -/
theorem timerMoves : Obligations.TimerMoves := by
  intro x s
  refine ⟨?read, ?writeDt, ?writeSt, ?readTicked, ?writeDtTicked, ?writeStTicked⟩
  case read => exact RegisterArithmetic.writeReg_writesReg x s.dt s
  case writeDt => exact ⟨_, rfl, rfl, rfl, rfl, timersUpdate_keepsButPcTimers s (s.reg x) s.st⟩
  case writeSt => exact ⟨_, rfl, rfl, rfl, rfl, timersUpdate_keepsButPcTimers s s.dt (s.reg x)⟩
  case readTicked => exact ⟨_, rfl, Laws.Registers.reg_setReg_same s x s.dt, Laws.Ops.tickTimer_toNat s.dt⟩
  case writeDtTicked => exact ⟨_, rfl, Laws.Ops.tickTimer_toNat (s.reg x)⟩
  case writeStTicked => exact ⟨_, rfl, Laws.Ops.tickTimer_toNat (s.reg x)⟩

/-- A cycle that fetches an encoded instruction is that instruction and then the tick (R85). -/
theorem step_of_fetch_encode {s : State} {i : Instr} (h : s.fetch = .ok (encode i)) :
    step s = tickAfter (exec i s) :=
  Laws.Step.step_decoded h (StoredCode.decode_encode i)

/-- Settles O48: the tick of the writing cycle comes before the read, the tick of the reading cycle after it (R153). -/
theorem delayTimerReadsBackOneLess : Obligations.DelayTimerReadsBackOneLess := by
  intro x y s hfetchWrite
  obtain ⟨-, -, -, -, ⟨t, hwrite, hdt⟩, -⟩ := timerMoves x s
  refine ⟨t, (step_of_fetch_encode hfetchWrite).trans hwrite, fun hfetchRead => ?_⟩
  obtain ⟨-, -, -, ⟨u, hread, hreg, -⟩, -⟩ := timerMoves y t
  exact ⟨u, (step_of_fetch_encode hfetchRead).trans hread, by rw [hreg, hdt]⟩

end Sys2Proof.Proofs.Timers
end

section
/-! The sprite draw (44_display.md R160 to R163): the pixels of the two loops are the cells under the sprite's 1 bits,
one draw toggles them, and a second one toggles them back. -/

namespace Sys2Proof.Proofs.Display

open Sys2Proof Sys2Proof.Machine Sys2Proof.Safety

/-! ### The pixels of the loops and the cells of the closed form (R160, R161) -/

/-- Bit-index 0 is the most significant bit (R160; log entry 6). -/
theorem spriteBit_iff (b : Byte) (j : Nat) : spriteBit params b j = true ↔ b.toNat / 2 ^ (7 - j) % 2 = 1 := by
  change b.toNat.testBit (7 - j) = true ↔ _
  rw [Nat.testBit_eq_decide_div_mod_eq, decide_eq_true_iff]

/-- A pixel with a 1 bit lies on a cell exactly when the cell is under a 1 bit of the sprite. -/
theorem mem_pixels_iff_lit (s : State) (x y : Reg) (n : Nat) (c : Col) (r : Row) :
    (c, r, true) ∈ Laws.Display.pixels s.mem s.i.toNat (s.reg x) (s.reg y) n ↔ Lit s x y n c r := by
  simp only [Laws.Display.pixels, List.mem_flatMap, List.mem_map, List.mem_range, Prod.mk.injEq, spriteBit_iff]
  constructor
  · rintro ⟨i, hi, j, hj, rfl, rfl, hbit⟩
    exact ⟨i, j, hi, hj, rfl, rfl, hbit⟩
  · rintro ⟨i, j, hi, hj, hrow, hcol, hbit⟩
    exact ⟨i, hi, j, hj, Fin.ext hcol.symm, Fin.ext hrow.symm, hbit⟩

/-- The cells under a sprite depend on the index, the two coordinates and the memory only. -/
theorem lit_congr {s t : State} {x y : Reg} (hI : KeepsI s t) (hx : t.reg x = s.reg x) (hy : t.reg y = s.reg y)
    (hmem : KeepsMemory s t) (n : Nat) (c : Col) (r : Row) : Lit t x y n c r ↔ Lit s x y n c r := by
  have hi : t.i = s.i := hI
  have hbyte (a : Nat) : t.byte a = s.byte a := hmem a
  simp only [Lit, hi, hx, hy, hbyte]

/-! ### One draw (R161, R162) -/

section Blit

variable {s : State} {x y : Reg} {n : Nat}

theorem cell_blit_of_lit (hn : n ≤ 32) {c : Col} {r : Row} (h : Lit s x y n c r) :
    (s.blit params x y n).fb.cell c r = !s.cell c r := by
  rw [Laws.Display.blit_eq, Laws.Display.cell_blitAll _ c r _ (Laws.Display.pixels_apart _ _ _ _ _ hn),
    if_pos ((mem_pixels_iff_lit s x y n c r).mpr h)]
  rfl

theorem cell_blit_of_not_lit (hn : n ≤ 32) {c : Col} {r : Row} (h : ¬ Lit s x y n c r) :
    (s.blit params x y n).fb.cell c r = s.cell c r := by
  rw [Laws.Display.blit_eq, Laws.Display.cell_blitAll _ c r _ (Laws.Display.pixels_apart _ _ _ _ _ hn),
    if_neg (mt (mem_pixels_iff_lit s x y n c r).mp h)]
  rfl

/-- The collision is over the whole sprite, against the cells as they were before the draw (R162). -/
theorem collision_blit_iff (hn : n ≤ 32) :
    (s.blit params x y n).collision = true ↔ ∃ c r, Lit s x y n c r ∧ s.cell c r = true := by
  rw [Laws.Display.blit_eq, Laws.Display.collision_blitAll _ _ (Laws.Display.pixels_apart _ _ _ _ _ hn)]
  simp only [mem_pixels_iff_lit, Bool.false_eq_true, false_or]
  rfl

end Blit

/-- A new framebuffer, `VF` and the advance of `PC` are no other piece of state (R163). -/
theorem drawUpdate_keepsButRegsScreen (s : State) (fb : FrameBuffer) (b : Byte) :
    KeepsButRegsScreen s ((s.setFb fb).setReg VF b).advance :=
  ⟨rfl, ⟨rfl, fun _ => rfl⟩, ⟨rfl, rfl⟩, fun _ => rfl, fun _ => rfl, rfl⟩

/-- Settles O49: the pixels of the loops lie on cells of their own, so each lit cell is toggled once and each collision
is with the cell as it was before the draw. -/
theorem drawIsTheXorOfTheSprite : Obligations.DrawIsTheXorOfTheSprite := by
  intro x y n s hin
  have hn : n.val ≤ 32 := by omega
  have hcollision := collision_blit_iff (s := s) (x := x) (y := y) hn
  refine ⟨_, Laws.Ops.drawSprite_inside x y n.val s hin, ?lit, ?unlit, ?hit, ?noHit, rfl, ?regs,
    drawUpdate_keepsButRegsScreen s _ _⟩
  case lit => exact fun _ _ hlit => cell_blit_of_lit hn hlit
  case unlit => exact fun _ _ hunlit => cell_blit_of_not_lit hn hunlit
  case hit =>
    intro hhit
    rw [Laws.State.advance_reg, Laws.Registers.reg_setReg_same, hcollision.mpr hhit]
    rfl
  case noHit =>
    intro hhit
    rw [Laws.State.advance_reg, Laws.Registers.reg_setReg_same, Bool.eq_false_iff.mpr (mt hcollision.mp hhit)]
    rfl
  case regs => exact fun _ hr => Laws.Registers.reg_setReg_other _ _ hr

/-! ### Two draws -/

/-- Settles O50: with coordinates other than `VF` the first draw leaves the sprite and its place, so the second toggles
the same cells back, and it collides where the first left a 1. -/
theorem drawTwiceRestoresTheScreen : Obligations.DrawTwiceRestoresTheScreen := by
  intro x y n s hx hy hin
  obtain ⟨t, hfirst, htoggled, hkept, -, -, -, hregs, hI, -, -, hmem, -⟩ := drawIsTheXorOfTheSprite x y n s hin
  have hi : t.i = s.i := hI
  obtain ⟨u, hsecond, hback, hkept', hhit, hnoHit, -⟩ := drawIsTheXorOfTheSprite x y n t (by rwa [hi])
  have hlit (c : Col) (r : Row) : Lit t x y n.val c r ↔ Lit s x y n.val c r :=
    lit_congr hI (hregs x hx) (hregs y hy) hmem n.val c r
  have hcollides : (∃ c r, Lit t x y n.val c r ∧ t.cell c r = true) ↔
      ∃ c r, Lit s x y n.val c r ∧ s.cell c r = false := by
    refine exists₂_congr fun c r => ?_
    rw [hlit]
    refine and_congr_right fun h => ?_
    rw [htoggled c r h, Bool.not_eq_true']
  refine ⟨t, u, hfirst, hsecond, fun c r => ?_, fun h => hhit (hcollides.mpr h),
    fun h => hnoHit (mt hcollides.mp h)⟩
  by_cases h : Lit s x y n.val c r
  · rw [hback c r ((hlit c r).mpr h), htoggled c r h, Bool.not_not]
  · rw [hkept' c r (mt (hlit c r).mp h), hkept c r h]

end Sys2Proof.Proofs.Display
end

section
/-! The input instructions (45_input.md R170 to R174): the two skips on the level of a key, and Fx0A in one cycle and
across the cycles of its wait. -/

namespace Sys2Proof.Proofs.Input

open Sys2Proof Sys2Proof.Machine Sys2Proof.Safety

/-! ### Ex9E and ExA1 (R170, R171, R173) -/

theorem exec_skp (x : Reg) (s : State) : exec (.skp x) s = skipOnKey params x true s := rfl

theorem exec_sknp (x : Reg) (s : State) : exec (.sknp x) s = skipOnKey params x false s := rfl

theorem skipOnKey_skipsWhen {x : Reg} {s : State} {k : Key} (want : Bool) (hk : (s.reg x).toNat = k.val) :
    SkipsWhen (s.key k = want) s (skipOnKey params x want s) := by
  obtain ⟨hout, -⟩ | ⟨j, hj, hskip⟩ := Laws.Ops.skipOnKey_cases x want s
  · omega
  · obtain rfl : j = k := Fin.ext (hj.trans hk)
    rw [hskip]
    exact ControlFlow.skipIf_skipsWhen s beq_iff_eq

/-- The error carries the register's value, zero-extended (R207). -/
theorem skipOnKey_outside {x : Reg} {s : State} (want : Bool) (h : (s.reg x).toNat > 15) :
    skipOnKey params x want s = .fault (.addressOutOfRange (BitVec.ofNat 16 (s.reg x).toNat) s.pc) := by
  obtain ⟨-, hfault⟩ | ⟨j, hj, -⟩ := Laws.Ops.skipOnKey_cases x want s
  · rw [hfault, ← Laws.Ops.zextByte_toNat, BitVec.ofNat_toNat, BitVec.setWidth_eq]
  · omega

/-- Settles O51: the two skips are one test of the key against the level wanted, and they share its range error. -/
theorem skipOnTheLevelOfAKey : Obligations.SkipOnTheLevelOfAKey := by
  intro x s
  rw [exec_skp, exec_sknp]
  exact ⟨fun k hk => ⟨skipOnKey_skipsWhen true hk, skipOnKey_skipsWhen false hk⟩,
    fun h => ⟨skipOnKey_outside true h, skipOnKey_outside false h⟩⟩

/-! ### One cycle of Fx0A (R172; log entry 10) -/

/-- `k` is the key Fx0A records: pressed, and no lower one is (R172). -/
def IsLowestKey (s : State) (k : Key) : Prop := s.key k = true ∧ ∀ j : Key, j < k → s.key j = false

theorem IsLowestKey.unique {s : State} {j k : Key} (hj : IsLowestKey s j) (hk : IsLowestKey s k) : j = k := by
  rcases lt_trichotomy j k with hlt | heq | hlt
  · exact absurd hj.1 (Bool.eq_false_iff.mp (hk.2 j hlt))
  · exact heq
  · exact absurd hk.1 (Bool.eq_false_iff.mp (hj.2 k hlt))

theorem exec_ldVxK_of_isLowestKey (x : Reg) {s : State} {k : Key} (hk : IsLowestKey s k) :
    exec (.ldVxK x) s = writeReg x (BitVec.ofNat 8 k.val) s := by
  change waitKey params x s = _
  obtain ⟨hnone, -⟩ | ⟨j, hpressed, hlower, hwrite⟩ := Laws.Ops.waitKey_cases x s
  · exact absurd hk.1 (Bool.eq_false_iff.mp (hnone k))
  · rw [hwrite, IsLowestKey.unique ⟨hpressed, hlower⟩ hk, Laws.Ops.writeReg_next]

theorem exec_ldVxK_of_noKey (x : Reg) {s : State} (h : ∀ k : Key, s.key k = false) :
    exec (.ldVxK x) s = .next s := by
  change waitKey params x s = _
  obtain ⟨-, hwait⟩ | ⟨j, hpressed, -⟩ := Laws.Ops.waitKey_cases x s
  · exact hwait
  · exact absurd hpressed (Bool.eq_false_iff.mp (h j))

/-- Settles O52: two keys that are both the lowest pressed one are the same key, so the scan records the one named. -/
theorem keyWaitRecordsTheLowestKey : Obligations.KeyWaitRecordsTheLowestKey := by
  refine fun x s => ⟨fun k hpressed hlower => ?_, exec_ldVxK_of_noKey x⟩
  rw [exec_ldVxK_of_isLowestKey x ⟨hpressed, hlower⟩]
  exact RegisterArithmetic.writeReg_writesReg x _ s

/-! ### The cycles of the wait (R174, R221; log entry 24) -/

theorem noKeys_key (s : State) (k : Key) : (s.setKeys noKeys).key k = false := Vector.getElem_replicate _

/-- The fetch reads no key, so a cycle at Fx0A runs it under the keys the host has just set (R221). -/
theorem stepWithKeys_ldVxK {x : Reg} {s : State} (ks : Keys) (h : s.fetch = .ok (encode (.ldVxK x))) :
    stepWithKeys ks s = tickAfter (exec (.ldVxK x) (s.setKeys ks)) :=
  Timers.step_of_fetch_encode h

/-- A cycle of the wait sets the keys and ticks the timers, and does nothing else (R174). -/
theorem stepWithKeys_noKeys {x : Reg} {s : State} (h : s.fetch = .ok (encode (.ldVxK x))) :
    stepWithKeys noKeys s = .next (s.setKeys noKeys).tick := by
  rw [stepWithKeys_ldVxK noKeys h, exec_ldVxK_of_noKey x (noKeys_key s)]
  rfl

/-- The cycle that ends the wait: the key's index to `V[x]`, and `PC` goes on (R172). -/
theorem stepWithKeys_isLowestKey {x : Reg} {s : State} {ks : Keys} {k : Key}
    (h : s.fetch = .ok (encode (.ldVxK x))) (hk : IsLowestKey (s.setKeys ks) k) :
    ∃ u, stepWithKeys ks s = .next u ∧ u.pc = s.pc + 2 ∧ (u.reg x).toNat = k.val ∧ KeepsRegs (· = x) s u := by
  obtain ⟨t, hwrite, hreg, hpc, hregs, -⟩ :=
    RegisterArithmetic.writeReg_writesReg x (BitVec.ofNat 8 k.val) (s.setKeys ks)
  refine ⟨t.tick, ?_, hpc, ?_, hregs⟩
  · rw [stepWithKeys_ldVxK ks h, exec_ldVxK_of_isLowestKey x hk, hwrite]
    rfl
  · have hlt := k.isLt
    rw [Laws.State.tick_reg, hreg, BitVec.toNat_ofNat, Nat.mod_eq_of_lt (by omega)]

/-- Settles O53, by induction on the number of waiting cycles: each keeps the fetch at Fx0A and all that the last cycle
reads or keeps, and lowers the timers by one. -/
theorem keyWaitHoldsAcrossCycles : Obligations.KeyWaitHoldsAcrossCycles := by
  intro x n
  induction n with
  | zero =>
    exact fun s h => ⟨s, rfl, rfl, fun _ => rfl, rfl, ⟨rfl, fun _ => rfl⟩, fun _ => rfl, fun _ _ => rfl, rfl, rfl,
      fun ks k hpressed hlower => stepWithKeys_isLowestKey h ⟨hpressed, hlower⟩⟩
  | succ n ih =>
    intro s h
    obtain ⟨t, hrun, hpc, hregs, hindex, hstack, hmem, hscreen, hdt, hst, hlast⟩ := ih (s.setKeys noKeys).tick h
    refine ⟨t, (ControlFlow.runWithKeys_cons (stepWithKeys_noKeys h)).trans hrun, hpc, hregs, hindex, hstack, hmem,
      hscreen, ?_, ?_, hlast⟩
    · rw [hdt, Laws.State.tick_dt, Laws.Ops.tickTimer_toNat, Laws.State.setKeys_dt]
      omega
    · rw [hst, Laws.State.tick_st, Laws.Ops.tickTimer_toNat, Laws.State.setKeys_st]
      omega

end Sys2Proof.Proofs.Input
end

section
/-! The errors of the instructions and of the cycle (60_exceptions.md R200 to R211): one function says which instruction
raises what in which state, and the statements about errors are read off it. -/

namespace Sys2Proof.Proofs.Errors

open Sys2Proof Sys2Proof.Machine Sys2Proof.Safety

/-! ### What an instruction raises (60_exceptions.md section 1, R207) -/

/-- The error `i` raises in `s`, or nothing when it completes: the table of 60_exceptions.md section 1. -/
def errorOf (i : Instr) (s : State) : Option Fault :=
  match i with
  | .call _ => if s.sp.val = 16 then some (.stackOverflow s.pc) else none
  | .ret => if s.sp.val = 0 then some (.stackUnderflow s.pc) else none
  | .drw _ _ n =>
    if n.val ≥ 1 ∧ s.i.toNat + n.val - 1 > 0xFFF then some (.addressOutOfRange 0x1000 s.pc) else none
  | .ldB _ => if s.i.toNat + 2 > 0xFFF then some (.addressOutOfRange 0x1000 s.pc) else none
  | .storeRegs x | .loadRegs x =>
    if s.i.toNat + x.val > 0xFFF then some (.addressOutOfRange 0x1000 s.pc) else none
  | .addI x =>
    if s.i.toNat + (s.reg x).toNat > 0xFFF then
      some (.addressOutOfRange (BitVec.ofNat 16 (s.i.toNat + (s.reg x).toNat)) s.pc)
    else none
  | .skp x | .sknp x =>
    if (s.reg x).toNat > 15 then some (.addressOutOfRange (BitVec.ofNat 16 (s.reg x).toNat) s.pc) else none
  | _ => none

/-- A result is as `errorOf` foretells it: the error named, or a completed instruction when none is. -/
def Answers (r : Result) : Option Fault → Prop
  | some f => r = .fault f
  | none => ∃ t, r = .next t

theorem answers_ite {r : Result} {c : Prop} [Decidable c] {f : Fault} (hc : c → r = .fault f)
    (hn : ¬ c → ∃ t, r = .next t) : Answers r (if c then some f else none) := by
  split
  · next h => exact hc h
  · next h => exact hn h

theorem Answers.eq_fault_iff {r : Result} {o : Option Fault} {f : Fault} (h : Answers r o) :
    r = .fault f ↔ o = some f := by
  cases o with
  | some g =>
    obtain rfl : r = .fault g := h
    simp
  | none =>
    obtain ⟨t, rfl⟩ := h
    simp

theorem Answers.ne_refused {r : Result} {o : Option Fault} (h : Answers r o) (q : Refusal) : r ≠ .refused q := by
  cases o with
  | some g =>
    obtain rfl : r = .fault g := h
    exact nofun
  | none =>
    obtain ⟨t, rfl⟩ := h
    exact nofun

theorem checkLast_answers (last : Nat) (s t : State) :
    Answers (checkLast last s (.next t)) (if last > 0xFFF then some (.addressOutOfRange 0x1000 s.pc) else none) :=
  answers_ite (Laws.Ops.checkLast_outside s _)
    fun h => ⟨t, Laws.Ops.checkLast_inside s _ (Nat.le_of_not_lt h)⟩

theorem skipOnKey_answers (x : Reg) (want : Bool) (s : State) :
    Answers (skipOnKey params x want s)
      (if (s.reg x).toNat > 15 then some (.addressOutOfRange (BitVec.ofNat 16 (s.reg x).toNat) s.pc) else none) := by
  refine answers_ite (Input.skipOnKey_outside want) fun h => ?_
  obtain ⟨hout, -⟩ | ⟨k, -, hk⟩ := Laws.Ops.skipOnKey_cases x want s
  · exact absurd hout h
  · exact ⟨_, hk⟩

/-- A full stack has no room for the return address (R203). -/
theorem exec_call_full (nnn : Addr12) {s : State} (h : s.sp.val = 16) :
    exec (.call nnn) s = .fault (.stackOverflow s.pc) := by
  change execCall nnn s = _
  rw [execCall, (Laws.Ops.push_eq_none s _).mpr h]
  rfl

/-- Every instruction answers what `errorOf` says. -/
theorem exec_answers (i : Instr) (s : State) : Answers (exec i s) (errorOf i s) := by
  cases i with
  | call nnn =>
    refine answers_ite (exec_call_full nnn) fun h => ?_
    obtain ⟨t, hpush⟩ := Laws.Ops.push_isSome s (s.pc + 2) (by have hsp := s.sp.isLt; omega)
    exact ⟨_, ControlFlow.exec_call_of_push nnn hpush⟩
  | ret =>
    refine answers_ite ControlFlow.exec_ret_empty fun h => ?_
    obtain ⟨a, t, hpop⟩ := Laws.Ops.pop_isSome s (Nat.pos_of_ne_zero h)
    exact ⟨_, ControlFlow.exec_ret_of_pop hpop⟩
  | drw x y n =>
    exact answers_ite (Laws.Ops.drawSprite_outside x y n.val s)
      fun h => ⟨_, Laws.Ops.drawSprite_inside x y n.val s (by omega)⟩
  | addI x =>
    exact answers_ite (Laws.Ops.addToIndex_outside x s)
      fun h => ⟨_, Laws.Ops.addToIndex_inside x s (Nat.le_of_not_lt h)⟩
  | ldB | storeRegs | loadRegs => exact checkLast_answers _ s _
  | skp x => exact skipOnKey_answers x true s
  | sknp x => exact skipOnKey_answers x false s
  | ldVxK x =>
    obtain ⟨-, hk⟩ | ⟨k, -, -, hk⟩ := Laws.Ops.waitKey_cases x s
    · exact ⟨_, hk⟩
    · exact ⟨_, hk⟩
  | _ => exact ⟨_, rfl⟩

theorem exec_eq_fault_iff {i : Instr} {s : State} {f : Fault} : exec i s = .fault f ↔ errorOf i s = some f :=
  (exec_answers i s).eq_fault_iff

/-- Settles O13: an instruction raises what `errorOf` says, which is its line of the table. -/
theorem operationErrorsExactly : Obligations.OperationErrorsExactly := by
  refine fun i s => ⟨(exec_answers i s).ne_refused, fun f => ?_⟩
  rw [exec_eq_fault_iff]
  cases i with
  | call | ret | ldB | storeRegs | loadRegs | addI | skp | sknp => simp [errorOf, eq_comm]
  | drw => simp [errorOf, eq_comm, and_assoc]
  | _ => simp [errorOf]

/-- Settles O14: in the table each of the two stack errors has one line. -/
theorem stackErrorsOnlyFromCallAndReturn : Obligations.StackErrorsOnlyFromCallAndReturn := by
  intro i s
  obtain ⟨-, htable⟩ := operationErrorsExactly i s
  constructor
  · simp [htable]
  · simp [htable]

/-! ### A failing cycle (R206, R211) -/

/-- The error depends on neither the keys nor the random input. -/
theorem errorOf_otherInputs (i : Instr) (s : State) (k : Keys) (n : Nat) :
    errorOf i ({ s with keys := k, draws := n } : State) = errorOf i s := by
  cases i <;> rfl

theorem step_fault_otherInputs {s : State} {f : Fault} (k : Keys) (n : Nat) (h : step s = .fault f) :
    step ({ s with keys := k, draws := n } : State) = .fault f := by
  have hfetch : ({ s with keys := k, draws := n } : State).fetch = s.fetch := rfl
  obtain herr | ⟨op, hop, hnone, rfl⟩ | ⟨op, i, hop, hi, hexec⟩ := Laws.Step.step_fault h
  · simp [step, hfetch, herr, raise]
  · simp [step, hfetch, hop, hnone, raise]
  · rw [exec_eq_fault_iff, ← errorOf_otherInputs i s k n, ← exec_eq_fault_iff] at hexec
    rw [Laws.Step.step_decoded (hfetch.trans hop) hi, hexec]
    rfl

theorem executeCycle_of_fault {s : State} {f : Fault} (h : step s = .fault f) : executeCycle s = (s, .error f) := by
  rw [executeCycle, h]
  rfl

/-- Settles O12: the fetch, the decoding and the checks of an instruction look at neither input. -/
theorem failingCycleWritesNothingAndRepeats : Obligations.FailingCycleWritesNothingAndRepeats := fun _ _ h =>
  ⟨executeCycle_of_fault h, fun k n => executeCycle_of_fault (step_fault_otherInputs k n h)⟩

/-- The host keeps its state unless the cycle completed (R206). -/
theorem executeCycle_keeps_of_not_completed {s : State} (h : (executeCycle s).2 ≠ .completed) :
    (executeCycle s).1 = s := by
  unfold executeCycle at h ⊢
  cases hstep : step s with
  | next t => rw [hstep] at h; exact absurd rfl h
  | fault f => rfl
  | refused r => rfl

theorem tickTimer_of_zero {b : Byte} (h : b.toNat = 0) : tickTimer b = 0 := by
  refine BitVec.eq_of_toNat_eq ?_
  rw [Laws.Ops.tickTimer_toNat, h]
  rfl

/-- Settles O11: a completed cycle is its instruction and then the tick; a failing one leaves the whole state. -/
theorem completedCycleTicksBothTimers : Obligations.CompletedCycleTicksBothTimers := by
  constructor
  · intro s u h
    obtain ⟨op, i, t, hop, hi, hexec, rfl⟩ := Laws.Step.step_next h
    exact ⟨op, i, t, hop, hi, hexec, fun _ => Laws.Ops.tickTimer_toNat t.dt, tickTimer_of_zero,
      fun _ => Laws.Ops.tickTimer_toNat t.st, tickTimer_of_zero, Encoding.tick_keepsButTimers t⟩
  · intro s f h
    rw [executeCycle_keeps_of_not_completed (by rw [h]; exact nofun)]
    exact ⟨rfl, rfl⟩

/-! ### OversizedProgram is no error of a cycle (R201) -/

theorem fetch_ne_oversizedProgram (s : State) (n : Nat) : s.fetch ≠ .error (.oversizedProgram n) := by
  by_cases hpc : s.pc.toNat ≤ 0xFFE
  · rw [Laws.Ops.fetch_inside s hpc]
    exact nofun
  · rw [Laws.Ops.fetch_outside s (by omega)]
    exact nofun

theorem exec_ne_oversizedProgram (i : Instr) (s : State) (n : Nat) : exec i s ≠ .fault (.oversizedProgram n) := by
  obtain ⟨-, htable⟩ := operationErrorsExactly i s
  simp [htable]

theorem step_ne_oversizedProgram (s : State) (n : Nat) : step s ≠ .fault (.oversizedProgram n) := by
  intro h
  obtain herr | ⟨op, -, -, hf⟩ | ⟨op, i, -, -, hexec⟩ := Laws.Step.step_fault h
  · exact fetch_ne_oversizedProgram s n herr
  · cases hf
  · exact exec_ne_oversizedProgram i s n hexec

end Sys2Proof.Proofs.Errors
end

section
/-! The two fields of the state that the shared operations never read (60_exceptions.md R216, R218, R222): the sound
timer, which no instruction reads, and the point of the random input, which only Cxkk reads. -/

namespace Sys2Proof.Proofs.UnreadFields

open Sys2Proof Sys2Proof.Machine Sys2Proof.Safety

/-- `s` with `ST` rewritten by `f` and the count of draws by `d`. -/
def mapUnread (f : Byte → Byte) (d : Nat → Nat) (s : State) : State := { s with st := f s.st, draws := d s.draws }

variable (f : Byte → Byte) (d : Nat → Nat) (s : State)

/-! ### The instructions that make a check or read a key -/

/-- A check that raises or lets an update through, neither of which reads the two fields. -/
theorem guarded_mapUnread (c : Prop) [Decidable c] (e : Fault) (t : State) :
    (if c then raise e (mapUnread f d s) else .next (mapUnread f d t)) =
      mapNext (mapUnread f d) (if c then raise e s else .next t) := by
  split <;> rfl

theorem execAddI_mapUnread (x : Reg) : execAddI x (mapUnread f d s) = mapNext (mapUnread f d) (execAddI x s) :=
  guarded_mapUnread f d s (s.i.toNat + (s.reg x).toNat > 0xFFF) _ (s.setI (s.i + zextByte (s.reg x))).advance

theorem execDrw_mapUnread (x y : Reg) (n : Fin 16) :
    execDrw x y n (mapUnread f d s) = mapNext (mapUnread f d) (execDrw x y n s) :=
  guarded_mapUnread f d s (n.val ≥ 1 ∧ s.i.toNat + n.val - 1 > 0xFFF) _
    ((s.setFb (s.blit params x y n.val).fb).setReg VF (flagByte (s.blit params x y n.val).collision)).advance

theorem checkLast_mapUnread (last : Nat) (t : State) :
    checkLast last (mapUnread f d s) (.next (mapUnread f d t)) =
      mapNext (mapUnread f d) (checkLast last s (.next t)) :=
  guarded_mapUnread f d s (last > 0xFFF) _ t

theorem skipOnKey_mapUnread (x : Reg) (want : Bool) :
    skipOnKey params x want (mapUnread f d s) = mapNext (mapUnread f d) (skipOnKey params x want s) := by
  have hreg : (mapUnread f d s).reg x = s.reg x := rfl
  unfold skipOnKey
  rw [hreg]
  cases keyOperand params (s.reg x) <;> rfl

theorem waitKey_mapUnread (x : Reg) :
    waitKey params x (mapUnread f d s) = mapNext (mapUnread f d) (waitKey params x s) := by
  have hkey : pressedKey params (mapUnread f d s) = pressedKey params s := rfl
  unfold waitKey
  rw [hkey]
  cases pressedKey params s <;> rfl

theorem execRet_mapUnread : execRet (mapUnread f d s) = mapNext (mapUnread f d) (execRet s) := by
  by_cases h : 0 < s.sp.val
  · simp [execRet, State.pop, State.setPc, mapUnread, mapNext, h]
  · simp [execRet, State.pop, raise, mapUnread, mapNext, h]

theorem execCall_mapUnread (nnn : Addr12) :
    execCall nnn (mapUnread f d s) = mapNext (mapUnread f d) (execCall nnn s) := by
  by_cases h : s.sp.val < 16
  · simp [execCall, State.push, State.setPc, mapUnread, mapNext, h]
  · simp [execCall, State.push, raise, mapUnread, mapNext, h]

/-! ### Every instruction but the two that have one of the fields as operand or destination -/

theorem exec_mapUnread {i : Instr} (hrnd : ∀ x kk, i ≠ .rnd x kk) (hst : ∀ x, i ≠ .ldSTVx x) :
    exec i (mapUnread f d s) = mapNext (mapUnread f d) (exec i s) := by
  cases i with
  | rnd x kk => exact absurd rfl (hrnd x kk)
  | ldSTVx x => exact absurd rfl (hst x)
  | ret => exact execRet_mapUnread f d s
  | call nnn => exact execCall_mapUnread f d s nnn
  | addI x => exact execAddI_mapUnread f d s x
  | drw x y n => exact execDrw_mapUnread f d s x y n
  | ldB x => exact checkLast_mapUnread f d s _ (s.storeBytes s.i.toNat (decimalDigits (s.reg x))).advance
  | storeRegs x => exact checkLast_mapUnread f d s _ (s.storeBytes s.i.toNat ((regsUpTo x).map s.reg)).advance
  | loadRegs x =>
    exact checkLast_mapUnread f d s _ (s.setV (loadList s.mem s.i.toNat (regsUpTo x) s.v)).advance
  | skp x => exact skipOnKey_mapUnread f d s x true
  | sknp x => exact skipOnKey_mapUnread f d s x false
  | ldVxK x => exact waitKey_mapUnread f d s x
  | _ => rfl

/-- Settles O21: Fx18 writes `ST` and leaves the count; the others are as `exec_mapUnread` says with `ST` kept. -/
theorem randomInputReachesOnlyRandom : Obligations.RandomInputReachesOnlyRandom := by
  intro i s n hrnd
  by_cases hst : ∃ x, i = .ldSTVx x
  · obtain ⟨x, rfl⟩ := hst
    rfl
  · exact exec_mapUnread id (fun _ => n) s hrnd (not_exists.mp hst)

theorem mapNext_comp (g h : State → State) (r : Result) : mapNext g (mapNext h r) = mapNext (g ∘ h) r := by
  cases r <;> rfl

/-- Settles O22: Cxkk reads the count alone and Fx18 overwrites `ST`; the others are as `exec_mapUnread` says with the
count kept. -/
theorem soundTimerIsNeverRead : Obligations.SoundTimerIsNeverRead := by
  intro i s b
  by_cases hrnd : ∃ x kk, i = .rnd x kk
  · obtain ⟨x, kk, rfl⟩ := hrnd
    rfl
  by_cases hst : ∃ x, i = .ldSTVx x
  · obtain ⟨x, rfl⟩ := hst
    rfl
  calc mapNext (fun t => t.setSt 0) (exec i (s.setSt b))
      = mapNext (fun t => t.setSt 0) (mapNext (mapUnread (fun _ => b) id) (exec i s)) :=
        congrArg _ (exec_mapUnread (fun _ => b) id s (by simpa using hrnd) (not_exists.mp hst))
    _ = mapNext (fun t => t.setSt 0) (exec i s) := mapNext_comp _ _ _

end Sys2Proof.Proofs.UnreadFields
end

section
/-! The host's protocol (60_exceptions.md R201, R226; 70_reset_and_hazards.md R240 to R247): which requests are refused,
which are served, and an image that does not fit. -/

namespace Sys2Proof.Proofs.HostProtocol

open Sys2Proof Sys2Proof.Machine Sys2Proof.Safety

variable {h : Session}

/-! ### Refused requests (A22, A28; log entry 26) -/

theorem move_cycle_refused (hp : h.phase ≠ .running) : h.move .cycle = (h, .refused .notBooted) := by
  obtain ⟨s, p⟩ := h
  cases p with
  | running => exact absurd rfl hp
  | _ => rfl

theorem move_loadGlyphs_refused (hp : h.phase ≠ .constructed) :
    h.move .loadGlyphs = (h, .refused .loadOutOfOrder) := by
  obtain ⟨s, p⟩ := h
  cases p with
  | constructed => exact absurd rfl hp
  | _ => rfl

theorem move_loadProgram_refused (hp : h.phase ≠ .glyphsLoaded) (image : List Byte) :
    h.move (.loadProgram image) = (h, .refused .loadOutOfOrder) := by
  obtain ⟨s, p⟩ := h
  cases p with
  | glyphsLoaded => exact absurd rfl hp
  | _ => rfl

/-! ### Served requests (R224, R226, R244) -/

theorem move_loadGlyphs_served (hp : h.phase = .constructed) :
    h.move .loadGlyphs = (⟨loadGlyphs h.state, .glyphsLoaded⟩, .completed) := by
  simp [Session.move, hp]

theorem move_loadProgram_fits (hp : h.phase = .glyphsLoaded) {image : List Byte} (hfits : image.length ≤ 3584) :
    h.move (.loadProgram image) = (⟨h.state.storeBytes 0x200 image, .running⟩, .completed) := by
  simp [Session.move, hp, Laws.HostPort.loadProgram_fits image h.state hfits]

/-- An image that does not fit leaves the state, and ends the boot (R201). -/
theorem move_loadProgram_oversized (hp : h.phase = .glyphsLoaded) {image : List Byte} (hbig : image.length > 3584) :
    h.move (.loadProgram image) = (⟨h.state, .loadFailed⟩, .error (.oversizedProgram image.length)) := by
  simp [Session.move, hp, Laws.HostPort.loadProgram_oversized image h.state hbig]

/-- A later boot loads the glyphs as the first one does, and the random input goes on (R247; log entries 16, 23). -/
theorem loadGlyphs_reconstruct (s : State) :
    loadGlyphs s.reconstruct = { loadGlyphs State.reset with draws := s.draws } :=
  Laws.HostPort.storeBytes_otherDraws State.reset s.draws glyphBase params.glyphTable

theorem move_cycle_running (hp : h.phase = .running) :
    h.move .cycle = (⟨(executeCycle h.state).1, .running⟩, (executeCycle h.state).2) := by
  simp [Session.move, hp]

/-! ### The statements -/

/-- Settles O57: the load makes its check before its writes, and no cycle loads. -/
theorem oversizedProgramIsRejected : Obligations.OversizedProgramIsRejected := by
  refine ⟨fun image s hbig => ⟨⟨_, Laws.HostPort.loadProgram_oversized image s hbig⟩, fun h hp => ?_⟩,
    Errors.step_ne_oversizedProgram⟩
  rw [move_loadProgram_oversized hp hbig]
  exact ⟨⟨_, rfl⟩, rfl⟩

theorem refused_move_keeps_session {m : HostMove} {r : Refusal} (hr : (h.move m).2 = .refused r) :
    (h.move m).1 = h := by
  cases m with
  | reset | setKeys => cases hr
  | loadGlyphs =>
    by_cases hp : h.phase = .constructed
    · rw [move_loadGlyphs_served hp] at hr
      cases hr
    · rw [move_loadGlyphs_refused hp]
  | loadProgram image =>
    by_cases hp : h.phase = .glyphsLoaded
    · by_cases hfits : image.length ≤ 3584
      · rw [move_loadProgram_fits hp hfits] at hr
        cases hr
      · rw [move_loadProgram_oversized hp (by omega)] at hr
        cases hr
    · rw [move_loadProgram_refused hp]
  | cycle =>
    by_cases hp : h.phase = .running
    · rw [move_cycle_running hp] at hr ⊢
      rw [Errors.executeCycle_keeps_of_not_completed (by rw [hr]; exact nofun), ← hp]
    · rw [move_cycle_refused hp]

/-- Settles O59: each request is refused outside its own phase, and an oversized image leads to the phase in which all
three are. -/
theorem hostProtocolIsEnforced : Obligations.HostProtocolIsEnforced := by
  refine fun h => ⟨fun hp => ?cycle, fun hp => ?glyphs, fun hp image => ?program, fun image hbig hp => ?failed,
    fun _ _ => refused_move_keeps_session, rfl⟩
  case cycle => rw [move_cycle_refused hp]
  case glyphs => rw [move_loadGlyphs_refused hp]
  case program => rw [move_loadProgram_refused hp]
  case failed =>
    rw [move_loadProgram_oversized hp hbig]
    exact ⟨rfl, rfl, fun _ => rfl⟩

/-- Settles O60: in its own phase each request is served, and the boot after a reset stores what the first boot does
(R247). -/
theorem hostProtocolIsServed : Obligations.HostProtocolIsServed := by
  refine fun h => ⟨move_loadGlyphs_served, fun hp image hfits => ?program,
    fun hp => ⟨fun t ht => ?next, fun f hf => ?fault⟩, fun _ => rfl, fun image hfits => ?boot⟩
  case program => exact ⟨_, Laws.HostPort.loadProgram_fits image h.state hfits, move_loadProgram_fits hp hfits⟩
  case next =>
    rw [move_cycle_running hp, executeCycle, ht]
    rfl
  case fault => rw [move_cycle_running hp, Errors.executeCycle_of_fault hf, ← hp]
  case boot =>
    refine ⟨_, Laws.HostPort.loadProgram_fits image _ hfits, ?_⟩
    rw [move_loadGlyphs_served rfl, move_loadProgram_fits rfl hfits, ← Laws.HostPort.storeBytes_otherDraws,
      ← loadGlyphs_reconstruct]
    rfl

end Sys2Proof.Proofs.HostProtocol
end

section
/-! Words of the opcode map written out (30_encoding.md section 3, R78). -/

namespace Sys2Proof.Proofs.SampleWords

open Sys2Proof Sys2Proof.Machine Sys2Proof.Proofs.StoredCode

/-- Settles O5: each word is the opcode of its instruction, so decoding gives the instruction back. -/
theorem sampleWordsDecode : Obligations.SampleWordsDecode :=
  ⟨decode_encode .cls, decode_encode (.jp 0x234), decode_encode (.call 0xABC), decode_encode (.seImm 0xA 0x7F),
    decode_encode (.sneImm 0xA 0x7F), decode_encode (.seReg 0xA 0xB), decode_encode (.ldImm 0xF 0x12),
    decode_encode (.addImm 0x0 0x01), decode_encode (.subReg 1 2), decode_encode (.sneReg 0xA 0xB),
    decode_encode (.ldI 0x123), decode_encode (.jpV0 0x123), decode_encode (.rnd 0xF 0xFF),
    decode_encode (.drw 0xA 0xB 0xC), decode_encode (.sknp 1), decode_encode (.ldDTVx 5),
    decode_encode (.storeRegs 1)⟩

end Sys2Proof.Proofs.SampleWords
end

section
/-! The boot (70_reset_and_hazards.md R240 to R246): what memory holds after the two loads. -/

namespace Sys2Proof.Proofs.Boot

open Sys2Proof Sys2Proof.Machine Sys2Proof.Safety Sys2Proof.Proofs.StoredCode

/-! ### The two loads (R242, R243) -/

theorem glyphTable_length : params.glyphTable.length = 80 := rfl

theorem loadGlyphs_byte_glyph (s : State) {a : Nat} (ha : a < 80) :
    (loadGlyphs s).byte a = params.glyphTable.getD a 0 := by
  have hin : a < params.glyphTable.length := ha
  have hroom : glyphBase + params.glyphTable.length ≤ memSize := by decide
  calc (loadGlyphs s).byte a = (loadGlyphs s).byte (glyphBase + a) := by rw [glyphBase, Nat.zero_add]
    _ = params.glyphTable[a] := Laws.Memory.storeBytes_byte_inside s glyphBase a params.glyphTable hroom hin
    _ = params.glyphTable.getD a 0 := (List.getD_eq_getElem params.glyphTable 0 hin).symm

theorem loadGlyphs_byte_above (s : State) {a : Nat} (ha : 80 ≤ a) : (loadGlyphs s).byte a = s.byte a :=
  storeBytes_keepsMemoryBut s glyphBase params.glyphTable a (.inr ha)

/-- Settles O58: the load is one block store from 0x200, inside memory. -/
theorem programImageIsCopied : Obligations.ProgramImageIsCopied := fun image s hfits =>
  ⟨_, Laws.HostPort.loadProgram_fits image s hfits, fun _ hj => byte_loadedImage image s hfits hj,
    storeBytes_keepsMemoryBut s 0x200 image, rfl, storeBytes_keepsButMemory s 0x200 image⟩

/-- The two loads of the boot, stated for any bytes so that the glyph table stays folded (R244). -/
theorem storeBytes_twice_keepsButMemory (s : State) (a b : Nat) (as bs : List Byte) :
    KeepsButMemory s ((s.storeBytes a as).storeBytes b bs) :=
  storeBytes_keepsButMemory s a as

/-- Settles O56: the image is copied over the state that `load_glyphs` leaves, and the glyph table ends below it. -/
theorem stateAtTheFirstCycle : Obligations.StateAtTheFirstCycle := by
  intro image hfits
  have hother := storeBytes_keepsMemoryBut (loadGlyphs State.reset) 0x200 image
  refine ⟨_, Laws.HostPort.loadProgram_fits image _ hfits, glyphTable_length, fun a ha => ?glyphs,
    fun j hj => byte_loadedImage image _ hfits hj, fun a ha hout => ?zeros, Laws.State.storeBytes_pc _ _ _,
    storeBytes_twice_keepsButMemory State.reset glyphBase 0x200 params.glyphTable image⟩
  case glyphs => rw [hother a (by omega), loadGlyphs_byte_glyph _ ha]
  case zeros =>
    rw [hother a hout, loadGlyphs_byte_above _ ha]
    rfl

end Sys2Proof.Proofs.Boot
end
